-- ==== Sys2Proof/Word.lean ====
section
/-! DEFINITION. The value types of `00_scope.md` R12. Every value is unsigned; nothing is sign-extended. -/

namespace Sys2Proof

/-- R12: `Byte`, an unsigned 8-bit value. -/
abbrev Byte := BitVec 8

/-- R12: `U16`, unsigned 16-bit. -/
abbrev U16 := BitVec 16

/-- R12: `U64`, unsigned 64-bit. -/
abbrev U64 := BitVec 64

/-- R12: `ByteSeq`, a finite sequence of bytes, possibly empty; byte 0 is the first sent or received (R13). -/
abbrev ByteSeq := List Byte

end Sys2Proof
end

