-- ==== Sys2Proof/Config.lean ====
section
/-! DEFINITION. The two parameters of `00_scope.md` R11 that the spec leaves OPEN. The parameters the spec
fixes or decides (R10, R11) stand in `Sys2Proof/Machine/Params.lean`. -/

namespace Sys2Proof

/-- How many channels `State.reset` has. NUM_CHANNELS itself is the length of `State.ctx` and stays open: every
statement of the model is over every number of channels.
DESIGN CHOICE (log 1): R11 leaves NUM_CHANNELS OPEN; 2 is what the programs of `95_test_vectors.md` take. Unsafe
only for a claim about `State.reset` that rests on the number 2. -/
def Config.resetChannels : Nat := 2

/-- IDLE_APID (R11, R86): the reserved idle/fill APID, an OPEN 11-bit parameter. No rule reads it, and nothing in
this model does; it has no body, so that nothing can be proved of its value (log 7, safe). -/
opaque Config.idleApid : BitVec 11

end Sys2Proof
end

