-- ==== Sys2Proof/Syntax.lean ====
section
/-! DEFINITION. The nine operations (`30_encoding.md` R71) and the requests that select them (R70, R72). -/

namespace Sys2Proof

/-- One constructor per row of spec/opcode_table.json, with the operands of its format in the order of R72.
`Opt(T)` is `Option T`: `none` is the document's null reference. Every term is sendable: R72 gives each operand a
fixed type, and a value outside the type cannot be represented. -/
inductive Instr where
  | crc16 (data : ByteSeq)
  | frameEncode (payload : Option ByteSeq) (length : Nat)
  | frameDecodeByte (c : Nat) (b : Byte)
  | frameDecoderReset (c : Nat)
  | spWrap (sourceId : U16) (userData : Option ByteSeq) (userDataLen : Nat) (nowMs : U64)
  | spGetSourceId (buffer : Option ByteSeq)
  | spHasSecondaryHeader (buffer : Option ByteSeq)
  | spGetTimestamp (buffer : Option ByteSeq)
  | spUnpackHeader (buffer : Option ByteSeq)
  deriving DecidableEq, Repr

/-- The six operand formats of R72. -/
inductive Format where
  | fSeq
  | fEnc
  | fDec
  | fCh
  | fWrap
  | fBuf
  deriving DecidableEq, Repr

/-- The operand record that follows a command byte (R70), one constructor per format of R72. `absent` is the
record of a request whose command byte is reserved: such a request has no format and no operand is read (R75). -/
inductive OperandRecord where
  | seq (data : ByteSeq)
  | enc (payload : Option ByteSeq) (length : Nat)
  | dec (c : Nat) (b : Byte)
  | ch (c : Nat)
  | wrap (sourceId : U16) (userData : Option ByteSeq) (userDataLen : Nat) (nowMs : U64)
  | buf (buffer : Option ByteSeq)
  | absent
  deriving DecidableEq, Repr

/-- R70: "A request is a command byte `cmd` (8 bits) followed by the operand record of its format". -/
structure Request where
  cmd : Byte
  operands : OperandRecord
  deriving DecidableEq, Repr

end Sys2Proof
end

