-- ==== Sys2Proof/WellFormed.lean ====
section
/-! DEFINITION. Which operand records belong to which format (`30_encoding.md` R72). There is no check on `Instr`:
R72 types every operand, so every term of `Instr` can be sent. What can be ill formed is a `Request` whose record
is not of its command byte's format; `Request.wf` (Decode.lean, where the command bytes stand) is this check at
the format of R71. -/

namespace Sys2Proof

/-- R72: the record is one of format `f`. -/
def OperandRecord.inFormat (f : Format) : OperandRecord → Bool
  | .seq _ => f == .fSeq
  | .enc _ _ => f == .fEnc
  | .dec _ _ => f == .fDec
  | .ch _ => f == .fCh
  | .wrap _ _ _ _ => f == .fWrap
  | .buf _ => f == .fBuf
  | .absent => false

end Sys2Proof
end

