-- ==== Sys2Proof/Decode.lean ====
section
/-! DEFINITION. The request decoder and encoder (`30_encoding.md` R70 to R75, R92). -/

namespace Sys2Proof

/-- R71: the format each command byte selects, "by exact match on all 8 bits" (R70). The reserved bytes, 0x00 and
0x0A to 0xFF (R75), have none. -/
def commandFormat (cmd : Byte) : Option Format :=
  match cmd.toNat with
  | 0x01 => some .fSeq
  | 0x02 => some .fEnc
  | 0x03 => some .fDec
  | 0x04 => some .fCh
  | 0x05 => some .fWrap
  | 0x06 => some .fBuf
  | 0x07 => some .fBuf
  | 0x08 => some .fBuf
  | 0x09 => some .fBuf
  | _ => none

/-- R72: the operand record is of the format its command byte selects. A reserved command byte reads no operand
(R75), so any record may stand beside one. -/
def Request.wf (r : Request) : Bool :=
  match commandFormat r.cmd with
  | some f => r.operands.inFormat f
  | none => true

/-- What the decoder finds in a request. -/
inductive Decoded where
  /-- an operation of R71 with its operands -/
  | op (i : Instr)
  /-- a reserved command byte (R75) -/
  | reserved (cmd : Byte)
  /-- a record that is not of the command byte's format, which R72 says cannot be sent -/
  | badRecord (cmd : Byte)
  deriving DecidableEq, Repr

/-- Decoding, total on every command byte and record (R75: "every one of the 256 values is either an operation of
R71 or reserved"). The command byte is examined first (R215). -/
def decode (r : Request) : Decoded :=
  match commandFormat r.cmd with
  | none => .reserved r.cmd
  | some _ =>
    match r.cmd.toNat, r.operands with
    | 0x01, .seq data => .op (.crc16 data)
    | 0x02, .enc payload length => .op (.frameEncode payload length)
    | 0x03, .dec c b => .op (.frameDecodeByte c b)
    | 0x04, .ch c => .op (.frameDecoderReset c)
    | 0x05, .wrap sourceId userData userDataLen nowMs => .op (.spWrap sourceId userData userDataLen nowMs)
    | 0x06, .buf buffer => .op (.spGetSourceId buffer)
    | 0x07, .buf buffer => .op (.spHasSecondaryHeader buffer)
    | 0x08, .buf buffer => .op (.spGetTimestamp buffer)
    | 0x09, .buf buffer => .op (.spUnpackHeader buffer)
    | _, _ => .badRecord r.cmd

/-- R71, R72: the request that carries an operation: its command byte and its operand record. -/
def encode : Instr → Request
  | .crc16 data => ⟨0x01, .seq data⟩
  | .frameEncode payload length => ⟨0x02, .enc payload length⟩
  | .frameDecodeByte c b => ⟨0x03, .dec c b⟩
  | .frameDecoderReset c => ⟨0x04, .ch c⟩
  | .spWrap sourceId userData userDataLen nowMs => ⟨0x05, .wrap sourceId userData userDataLen nowMs⟩
  | .spGetSourceId buffer => ⟨0x06, .buf buffer⟩
  | .spHasSecondaryHeader buffer => ⟨0x07, .buf buffer⟩
  | .spGetTimestamp buffer => ⟨0x08, .buf buffer⟩
  | .spUnpackHeader buffer => ⟨0x09, .buf buffer⟩

/-- R92: `FEED c, [b0 b1 ... bk]` stands for the requests `FRAME_DECODE_BYTE c, b0` to `FRAME_DECODE_BYTE c, bk`,
in that order. Notation only: it has no command byte. -/
def feedRequests (c : Nat) (bs : ByteSeq) : List Request :=
  bs.map fun b => encode (.frameDecodeByte c b)

/-- The operand record every one of whose operands is zero: empty sequence, null reference, 0. The opcode table
gives an instruction's operands no bits, so this is the record that stands for "every other bit is 0" (log 5). -/
def zeroRecord : Option Format → OperandRecord
  | some .fSeq => .seq []
  | some .fEnc => .enc none 0
  | some .fDec => .dec 0 0
  | some .fCh => .ch 0
  | some .fWrap => .wrap 0 none 0 0
  | some .fBuf => .buf none
  | none => .absent

/-- The request of an instruction word `w`: bits 7..0 are the command byte (the table's rows have no other bit),
followed by the zero record of its format. -/
def wordRequest (w : Nat) : Request :=
  let cmd : Byte := BitVec.ofNat 8 w
  ⟨cmd, zeroRecord (commandFormat cmd)⟩

/-- The instruction the decoder reads from a table word of `nbits` bits (eight for every row), every operand zero;
`none` where the decoder finds a reserved byte, or where the word does not fit its bits or is not one command byte. -/
def decodeTableWord (nbits w : Nat) : Option Instr :=
  if 8 ≤ nbits ∧ w < 2 ^ 8 then
    match decode (wordRequest w) with
    | .op i => some i
    | .reserved _ => none
    | .badRecord _ => none
  else none

end Sys2Proof
end

