-- ==== Sys2Proof/Machine/State.lean ====
section
/-! DEFINITION. The machine's state (`10_state.md` R23 to R37), the responses and events a step gives
(`30_encoding.md` R90, `60_exceptions.md` R222), and the ways a step can stop. -/

namespace Sys2Proof.Machine

/-- R26: "exactly the four states" of a decoder. -/
inductive DecoderState where
  | searching
  | readLen
  | readPayload
  | verify
  deriving DecidableEq, Repr

/-- R24: a decoder context has exactly these seven fields, at the widths of R24's table. -/
structure Context where
  /-- `state` -/
  state : DecoderState
  /-- `sync_latch`: the latched sync byte -/
  syncLatch : Byte
  /-- `buf`: the working buffer, 64 bytes, index 0..63 (R30) -/
  buf : Vector Byte 64
  /-- `exp_len`: the expected length -/
  expLen : Byte
  /-- `fill`: the fill index, 7 bits -/
  fill : BitVec 7
  /-- `crc_idx`: the CRC-byte sub-index, 1 bit -/
  crcIdx : BitVec 1
  /-- `rx_crc`: the accumulated received CRC -/
  rxCrc : U16
  deriving DecidableEq, Repr

/-- R36: the reset values of a context. -/
def Context.reset : Context where
  state := .searching
  syncLatch := 0x00
  buf := Vector.replicate 64 0x00
  expLen := 0
  fill := 0
  crcIdx := 0
  rxCrc := 0x0000

/-- R81: the frame record FRAME_ENCODE returns. -/
structure Frame where
  sync : Byte
  length : Byte
  payload : ByteSeq
  crc : U16
  deriving DecidableEq, Repr

/-- R195: the header record SP_UNPACK_HEADER returns. `kind` is the record's `type` bit. -/
structure Header where
  version : BitVec 3
  kind : BitVec 1
  sec : BitVec 1
  apid : BitVec 11
  seq : U16
  plen : U16
  time : Option U64
  deriving DecidableEq, Repr

/-- The kinds of error a response carries (R90, R212). -/
inductive ErrorKind where
  | invalidArgument
  | illegalOperation
  deriving DecidableEq, Repr

/-- R90: the response forms. -/
inductive Response where
  | crc (v : U16)
  | encoded (f : Frame) (w : ByteSeq)
  | incomplete
  | frameAccepted (p : ByteSeq)
  | frameRejected
  | ok
  | packet (w : ByteSeq)
  | sourceId (v : U16)
  | flag (f : Bool)
  | timestamp (t : U64)
  | header (h : Header)
  | undersized
  | error (kind : ErrorKind)
  deriving DecidableEq, Repr

/-- R222: the core's one output event, to the router. -/
inductive Event where
  | deliver (p : ByteSeq) (len : Nat)
  deriving DecidableEq, Repr

/-- R23: the persistent state is the array of decoder contexts. The three lists are the model's own fields (log 2):
R8's step takes a request and gives a response and events, and Host.Core's step has the state alone. -/
structure State where
  /-- `ctx[c]` for `c` in 0 .. NUM_CHANNELS-1; NUM_CHANNELS is its length (R11, R23; log 1) -/
  ctx : List Context
  /-- the model's own: requests the host has issued and the core has not taken, oldest first -/
  requests : List Request
  /-- the model's own: every response given so far, oldest first -/
  responses : List Response
  /-- the model's own: every event emitted so far, oldest first -/
  events : List Event
  deriving DecidableEq, Repr

/-- Why a step stops with a fault. -/
inductive Fault where
  /-- Raised by FRAME_DECODE_BYTE on a legal channel whose context breaks R33 (R35, R213: the spec's own
  `fault(ContextInvariant)`). SAFE: no run of the hardware reaches such a context, and no value is invented. -/
  | contextInvariant
  deriving DecidableEq, Repr

/-- Why a step refuses. -/
inductive Refusal where
  /-- Raised by an arm of `exec` whose instruction has no meaning yet. SAFE. No arm of this model raises it. -/
  | notModelled (mnemonic : String)
  /-- Raised by `step` on a request whose operand record is not of its command byte's format: R72 says that such a
  request "cannot be represented, and so cannot be sent". SAFE: no request the hardware can receive is refused. -/
  | operandFormat (cmd : Byte)
  deriving DecidableEq, Repr

/-- R240: the core as it comes up with `n` channels: every context at the values of R36, nothing requested, nothing
answered. -/
def State.resetWith (n : Nat) : State where
  ctx := List.replicate n Context.reset
  requests := []
  responses := []
  events := []

/-- The machine after reset (R240), with the number of channels of `Config.resetChannels` (log 1). -/
def State.reset : State := State.resetWith Config.resetChannels

end Sys2Proof.Machine
end

