-- ==== Sys2Proof/Machine/Params.lean ====
section
/-! DEFINITION. The parameters the spec fixes (`00_scope.md` R10) or decides (R11), under R10's and R11's names. -/

namespace Sys2Proof.Machine.Params

/-- SYNC -/
def sync : Byte := 0xAA

/-- MAX_PAYLOAD -/
abbrev maxPayload : Nat := 64

/-- MIN_PAYLOAD -/
abbrev minPayload : Nat := 1

/-- FRAME_OVERHEAD: sync, length, CRC high, CRC low -/
abbrev frameOverhead : Nat := 4

/-- CRC_POLY -/
def crcPoly : U16 := 0x1021

/-- CRC_INIT -/
def crcInit : U16 := 0xFFFF

/-- SP_PRIMARY_LEN -/
abbrev spPrimaryLen : Nat := 6

/-- SP_SECONDARY_LEN -/
abbrev spSecondaryLen : Nat := 8

/-- SP_ID_FIXED: version 0, type 1, secondary-header flag 1 -/
def spIdFixed : U16 := 0x1800

/-- SP_APID_MASK: 11 bits -/
def spApidMask : U16 := 0x07FF

/-- SP_SEQ_FIXED: "unsegmented, no group" -/
def spSeqFixed : U16 := 0xC000

/-- SP_DECODE_MIN_LEN, the spec's value 2 (R188, D14; log 6) -/
abbrev spDecodeMinLen : Nat := 2

/-- SP_MAX_USER_DATA: the largest n with 7 + n within 16 bits (D12) -/
abbrev spMaxUserData : Nat := 65528

end Sys2Proof.Machine.Params
end

