-- ==== Sys2Proof/Machine/Ops.lean ====
section
/-! DEFINITION. The named operations over the state: contexts, requests, responses and events. The core takes no
exception and returns from none (`60_exceptions.md` R210, R216, R217); every error is a response, given by the one
operation `State.respondError`, which leaves every context as it was. -/

namespace Sys2Proof.Machine

/-- `respond R` (R17): the result of the operation, given to the host (R90). -/
def State.respond (s : State) (r : Response) : State :=
  { s with responses := s.responses ++ [r] }

/-- `respond Error(kind)` (R17, R210): an error is an ordinary response and changes no context. -/
def State.respondError (s : State) (k : ErrorKind) : State :=
  s.respond (.error k)

/-- `emit E` (R17), for each event of a list. -/
def State.emit (s : State) (es : List Event) : State :=
  { s with events := s.events ++ es }

/-- NUM_CHANNELS (R11). -/
def State.numChannels (s : State) : Nat := s.ctx.length

/-- `ctx[c]` (R16), or `none` where `c` is no legal channel: `c >= NUM_CHANNELS` (R73). -/
def State.context? (s : State) (c : Nat) : Option Context := s.ctx[c]?

/-- Writing back `ctx[c]` (R16): no other context is touched (R28). -/
def State.setContext (s : State) (c : Nat) (x : Context) : State :=
  { s with ctx := s.ctx.set c x }

/-- `MemWrite(buf, off, n, v)` (R16): the bytes of `v` into `buf` from `off` on. The only use is `buf[fill] <- b`,
with `fill` inside the buffer by R33. -/
def memWrite (buf : Vector Byte 64) (off : Nat) : ByteSeq → Vector Byte 64
  | [] => buf
  | b :: bs => memWrite (buf.setIfInBounds off b) (off + 1) bs

/-- `X.buf[0:exp_len)` (R145): the payload a context holds. -/
def Context.payload (x : Context) : ByteSeq := x.buf.toList.take x.expLen.toNat

/-- R33: what every context that a run reaches satisfies. -/
def Context.wf (x : Context) : Bool :=
  decide (x.fill.toNat ≤ 64) && decide (x.crcIdx.toNat ≤ 1) &&
  match x.state with
  | .searching => true
  | .readLen => x.syncLatch == 0xAA
  | .readPayload =>
    x.syncLatch == 0xAA && decide (1 ≤ x.expLen.toNat) && decide (x.expLen.toNat ≤ 64) &&
      decide (x.fill.toNat < x.expLen.toNat)
  | .verify =>
    x.syncLatch == 0xAA && decide (1 ≤ x.expLen.toNat) && decide (x.expLen.toNat ≤ 64) &&
      decide (x.fill.toNat = x.expLen.toNat) && (x.crcIdx != 0 || x.rxCrc == 0x0000)

/-- R75: a reserved command byte answers `Error(IllegalOperation)`; no context changes, no event is emitted. -/
def illegalOperation (s : State) : State := s.respondError .illegalOperation

/-- R60: the core takes the oldest request the host has issued; `none` where there is none. -/
def takeRequest (s : State) : Option (Request × State) :=
  match s.requests with
  | [] => none
  | r :: rest => some (r, { s with requests := rest })

/-- No request is pending: nothing happens, the core waits for the host (R256: "The host's issuing of requests is
its only source of progress"; log 3). -/
def idle (s : State) : State := s

/-- R225: the host issues one request; it joins the queue behind those already issued (R60). -/
def State.issue (s : State) (r : Request) : State :=
  { s with requests := s.requests ++ [r] }

end Sys2Proof.Machine
end

