-- ==== Sys2Proof/Machine/Operands.lean ====
section
/-! DEFINITION. Reading operand sequences and the big-endian helpers (`00_scope.md` R14 to R16; `20_memory.md` R54,
R55). -/

namespace Sys2Proof.Machine

/-- `s[i]` (R14), "defined only for 0 ≤ i < len(s)". Every rule that uses it checks the length first, so the 0 of a
byte out of range is never an operation's result. -/
def byteAt (s : ByteSeq) (i : Nat) : Byte := s.getD i 0

/-- `MemRead(s, off, n)` (R16): the slice `s[off:off+n)`. Every rule that uses it checks `off + n ≤ len(s)` first. -/
def memRead (s : ByteSeq) (off n : Nat) : ByteSeq := (s.drop off).take n

/-- `zext_16(b)` (R14). -/
def zext16 (b : Byte) : U16 := b.setWidth 16

/-- `zext_64(b)` (R14). -/
def zext64 (b : Byte) : U64 := b.setWidth 64

/-- `BE16(b0, b1)` (R15). -/
def be16 (b0 b1 : Byte) : U16 := (zext16 b0 <<< 8) ||| zext16 b1

/-- `BE64(s)` (R15): the sum over i in 0..7 of `zext_64(s[i]) << (8 * (7 - i))`. -/
def be64 (s : ByteSeq) : U64 :=
  ((List.range 8).map fun i => zext64 (byteAt s i) <<< (8 * (7 - i))).sum

/-- `toBE16(v)` (R15): `[v[15:8], v[7:0]]`. -/
def toBE16 (v : U16) : ByteSeq := [v.extractLsb' 8 8, v.extractLsb' 0 8]

/-- `toBE64(v)` (R15): the most significant byte first. -/
def toBE64 (v : U64) : ByteSeq :=
  [v.extractLsb' 56 8, v.extractLsb' 48 8, v.extractLsb' 40 8, v.extractLsb' 32 8,
   v.extractLsb' 24 8, v.extractLsb' 16 8, v.extractLsb' 8 8, v.extractLsb' 0 8]

end Sys2Proof.Machine
end

