-- ==== Sys2Proof/Machine/Flags.lean ====
section
/-! DEFINITION. The core has no flags and no condition codes (`10_state.md` R22): no operation of this file writes
state. What stands here is the spec's numbering of states and errors, which is for dumps and logs: no response
carries a number (R26, R211). -/

namespace Sys2Proof.Machine

/-- R26: the spec's codes of the decoder states. No operation exposes them. -/
def DecoderState.code : DecoderState → Nat
  | .searching => 0
  | .readLen => 1
  | .readPayload => 2
  | .verify => 3

/-- R211: the document's error taxonomy, with the spec's IllegalOperation. -/
inductive CoreError where
  | malformedLength
  | checksumMismatch
  | invalidArgument
  | illegalOperation
  deriving DecidableEq, Repr

/-- R211: the spec's codes of the errors. -/
def CoreError.code : CoreError → Byte
  | .malformedLength => 0x10
  | .checksumMismatch => 0x11
  | .invalidArgument => 0x01
  | .illegalOperation => 0x02

/-- R211: how each error is surfaced to the host. A malformed length is not distinct from "still searching". -/
def CoreError.surfacedAs : CoreError → Response
  | .malformedLength => .incomplete
  | .checksumMismatch => .frameRejected
  | .invalidArgument => .error .invalidArgument
  | .illegalOperation => .error .illegalOperation

end Sys2Proof.Machine
end

