-- ==== Sys2Proof/Machine/Crc16.lean ====
section
/-! DEFINITION. The CRC16 engine (`40_crc16.md` R100 to R108) and the CRC16 operation. The working register is a
local of the function (R29). -/

namespace Sys2Proof.Machine

/-- One round of R101: "shift left 1; if the bit shifted out was 1, XOR the register with the polynomial". -/
def crcRound (crc : U16) : U16 :=
  if crc.getLsbD 15 then (crc <<< 1) ^^^ Params.crcPoly else crc <<< 1

/-- R101's `repeat n times`. -/
def crcRounds : Nat → U16 → U16
  | 0, crc => crc
  | n + 1, crc => crcRounds n (crcRound crc)

/-- R101: the byte is XORed into the top 8 bits, then 8 rounds. -/
def crcUpdate (crc : U16) (b : Byte) : U16 :=
  crcRounds 8 (crc ^^^ (zext16 b <<< 8))

/-- R102: the left fold of the update from the initial value, "no reflection, no final XOR". -/
def crc16 (data : ByteSeq) : U16 :=
  data.foldl crcUpdate Params.crcInit

/-- CRC16 (R100). -/
def execCrc16 (data : ByteSeq) (s : State) : Host.Outcome State Fault Refusal :=
  .next (s.respond (.crc (crc16 data)))

end Sys2Proof.Machine
end

