-- ==== Sys2Proof/Machine/FrameEncoder.lean ====
section
/-! DEFINITION. The frame format and the frame encoder (`30_encoding.md` R76 to R81; `41_frame_encoder.md`). -/

namespace Sys2Proof.Machine

/-- R77, R104, R146: the one validation range, "exactly [sync byte, length byte, payload bytes]", of encoder and
decoder. -/
def validationRange (sync length : Byte) (payload : ByteSeq) : ByteSeq :=
  [sync, length] ++ payload

/-- R81: `frame_bytes(F) = [F.sync, F.length] ++ F.payload ++ toBE16(F.crc)`. -/
def frameBytes (f : Frame) : ByteSeq :=
  [f.sync, f.length] ++ f.payload ++ toBE16 f.crc

/-- R122: the frame that carries the payload `p`. -/
def frameOf (length : Byte) (p : ByteSeq) : Frame where
  sync := Params.sync
  length := length
  payload := p
  crc := crc16 (validationRange Params.sync length p)

/-- R120: the encoder's response, with the checks of R121 in R120's order. -/
def frameEncode (payload : Option ByteSeq) (length : Nat) : Response :=
  match payload with
  | none => .error .invalidArgument
  | some data =>
    if length > Params.maxPayload then .error .invalidArgument
    else if length < Params.minPayload then .error .invalidArgument
    else if length > data.length then .error .invalidArgument
    else
      let f := frameOf (BitVec.ofNat 8 length) (memRead data 0 length)
      .encoded f (frameBytes f)

/-- FRAME_ENCODE (R120). -/
def execFrameEncode (payload : Option ByteSeq) (length : Nat) (s : State) : Host.Outcome State Fault Refusal :=
  .next (s.respond (frameEncode payload length))

end Sys2Proof.Machine
end

