-- ==== Sys2Proof/Machine/FrameDecoder.lean ====
section
/-! DEFINITION. The frame decoder (`42_frame_decoder.md` R140 to R150). A field an arm does not name keeps its value
(R149). -/

namespace Sys2Proof.Machine

/-- What one arm gives: the context after it, the response, and the events it emits. -/
structure ArmResult where
  ctx : Context
  response : Response
  events : List Event
  deriving DecidableEq, Repr

/-- R141, the SEARCHING arm: a sync byte is latched and the working buffer cleared; any other byte is discarded. -/
def searchingArm (x : Context) (b : Byte) : ArmResult :=
  if b = Params.sync then
    ⟨{ x with syncLatch := b, buf := Vector.replicate 64 0x00, state := .readLen }, .incomplete, []⟩
  else ⟨x, .incomplete, []⟩

/-- R142, the READ_LEN arm: a byte in 1..64 is the expected length; any other is discarded, and is not examined
again as a sync byte. -/
def readLenArm (x : Context) (b : Byte) : ArmResult :=
  if Params.minPayload ≤ b.toNat ∧ b.toNat ≤ Params.maxPayload then
    ⟨{ x with expLen := b, fill := 0, state := .readPayload }, .incomplete, []⟩
  else ⟨{ x with state := .searching }, CoreError.malformedLength.surfacedAs, []⟩

/-- R143, the READ_PAYLOAD arm: every byte value is payload; the last one moves the context to VERIFY. -/
def readPayloadArm (x : Context) (b : Byte) : ArmResult :=
  let y := { x with buf := memWrite x.buf x.fill.toNat [b], fill := x.fill + 1 }
  if y.fill.toNat = y.expLen.toNat then
    ⟨{ y with crcIdx := 0, rxCrc := 0x0000, state := .verify }, .incomplete, []⟩
  else ⟨y, .incomplete, []⟩

/-- R144, the VERIFY arm on the first CRC byte: the high byte. -/
def verifyHighArm (x : Context) (b : Byte) : ArmResult :=
  ⟨{ x with rxCrc := zext16 b <<< 8, crcIdx := 1 }, .incomplete, []⟩

/-- R145 and R147, the VERIFY arm on the second CRC byte: back to SEARCHING on match and on mismatch; on a match the
payload is delivered and accepted, on a mismatch it is neither retained nor forwarded. -/
def verifyLowArm (x : Context) (b : Byte) : ArmResult :=
  let y := { x with rxCrc := x.rxCrc ||| zext16 b, state := .searching }
  if crc16 (validationRange x.syncLatch x.expLen x.payload) = y.rxCrc then
    ⟨y, .frameAccepted x.payload, [.deliver x.payload x.expLen.toNat]⟩
  else ⟨y, CoreError.checksumMismatch.surfacedAs, []⟩

/-- R140's case on `X.state`: exactly one arm applies to the byte. -/
def decoderArm (x : Context) (b : Byte) : ArmResult :=
  match x.state with
  | .searching => searchingArm x b
  | .readLen => readLenArm x b
  | .readPayload => readPayloadArm x b
  | .verify => if x.crcIdx = 0 then verifyHighArm x b else verifyLowArm x b

/-- The effect of an arm's result on channel `c`: its context, the events, the response. -/
def applyArm (s : State) (c : Nat) (a : ArmResult) : State :=
  ((s.setContext c a.ctx).emit a.events).respond a.response

/-- FRAME_DECODE_BYTE (R140), with the checks in the order of R215: the channel, the invariant, the arm. -/
def execFrameDecodeByte (c : Nat) (b : Byte) (s : State) : Host.Outcome State Fault Refusal :=
  match s.context? c with
  | none => .next (s.respondError .invalidArgument)
  | some x => if x.wf then .next (applyArm s c (decoderArm x b)) else .fault .contextInvariant

/-- FRAME_DECODER_RESET (R150): defined on every context, including one that breaks R33. -/
def execFrameDecoderReset (c : Nat) (s : State) : Host.Outcome State Fault Refusal :=
  match s.context? c with
  | none => .next (s.respondError .invalidArgument)
  | some _ => .next ((s.setContext c Context.reset).respond .ok)

end Sys2Proof.Machine
end

