-- ==== Sys2Proof/Machine/SpacePacket.lean ====
section
/-! DEFINITION. The space-packet codec (`43_space_packet.md` R180 to R197; `30_encoding.md` R82 to R87). Every
operation is a function of its operands alone (R180). -/

namespace Sys2Proof.Machine

/-- R182: the identifier SP_WRAP writes. -/
def spIdentifier (sourceId : U16) : U16 :=
  Params.spIdFixed ||| (sourceId &&& Params.spApidMask)

/-- R183: the length field, `8 + n - 1`. -/
def spLengthField (n : Nat) : U16 := BitVec.ofNat 16 (Params.spSecondaryLen + n - 1)

/-- R82: the primary header, the secondary header and the user data, in wire order. -/
def packetBytes (sourceId : U16) (data : ByteSeq) (nowMs : U64) : ByteSeq :=
  toBE16 (spIdentifier sourceId) ++ toBE16 Params.spSeqFixed ++ toBE16 (spLengthField data.length) ++
    toBE64 nowMs ++ data

/-- R181: SP_WRAP's response, with the checks of R184 in R181's order. -/
def spWrap (sourceId : U16) (userData : Option ByteSeq) (userDataLen : Nat) (nowMs : U64) : Response :=
  match userData with
  | none => .error .invalidArgument
  | some data =>
    if userDataLen > data.length then .error .invalidArgument
    else if userDataLen > Params.spMaxUserData then .error .invalidArgument
    else .packet (packetBytes sourceId (memRead data 0 userDataLen) nowMs)

/-- The big-endian 16-bit field at offset `k` of a packet (R55). -/
def fieldAt (s : ByteSeq) (k : Nat) : U16 := be16 (byteAt s k) (byteAt s (k + 1))

/-- R83: `version = id[15:13]`. -/
def idVersion (id : U16) : BitVec 3 := id.extractLsb' 13 3

/-- R83: `type = id[12]`. -/
def idType (id : U16) : BitVec 1 := id.extractLsb' 12 1

/-- R83: `sec = id[11]`. -/
def idSec (id : U16) : BitVec 1 := id.extractLsb' 11 1

/-- R83: `apid = id[10:0]`. -/
def idApid (id : U16) : BitVec 11 := id.extractLsb' 0 11

/-- R192, R195: the secondary header's time stamp, bytes 6 to 13. -/
def timeField (s : ByteSeq) : U64 := be64 (memRead s Params.spPrimaryLen Params.spSecondaryLen)

/-- R187, R188: the APID, or the sentinel 0 on a null or undersized buffer. -/
def spGetSourceId (buffer : Option ByteSeq) : U16 :=
  match buffer with
  | none => 0x0000
  | some s => if s.length < Params.spDecodeMinLen then 0x0000 else (idApid (fieldAt s 0)).setWidth 16

/-- R190, R191: identifier bit 11, or the sentinel false on a null or undersized buffer. -/
def spHasSecondaryHeader (buffer : Option ByteSeq) : Bool :=
  match buffer with
  | none => false
  | some s => if s.length < Params.spDecodeMinLen then false else idSec (fieldAt s 0) == 1

/-- R192, R193: the time stamp, or the sentinel 0 on a null buffer, one shorter than both headers, or one whose
secondary-header flag is 0. -/
def spGetTimestamp (buffer : Option ByteSeq) : U64 :=
  match buffer with
  | none => 0
  | some s =>
    if s.length < Params.spPrimaryLen + Params.spSecondaryLen then 0
    else if idSec (fieldAt s 0) = 0 then 0
    else timeField s

/-- R195: the header record of a buffer that holds a primary header. Nothing is validated (R86). -/
def unpackedHeader (s : ByteSeq) : Header :=
  let id := fieldAt s 0
  { version := idVersion id
    kind := idType id
    sec := idSec id
    apid := idApid id
    seq := fieldAt s 2
    plen := fieldAt s 4
    time := if idSec id = 1 ∧ Params.spPrimaryLen + Params.spSecondaryLen ≤ s.length then some (timeField s) else none }

/-- R195, R196: SP_UNPACK_HEADER's response. -/
def spUnpackHeader (buffer : Option ByteSeq) : Response :=
  match buffer with
  | none => .undersized
  | some s => if s.length < Params.spPrimaryLen then .undersized else .header (unpackedHeader s)

/-- SP_WRAP (R181). -/
def execSpWrap (sourceId : U16) (userData : Option ByteSeq) (userDataLen : Nat) (nowMs : U64) (s : State) :
    Host.Outcome State Fault Refusal :=
  .next (s.respond (spWrap sourceId userData userDataLen nowMs))

/-- SP_GET_SOURCE_ID (R187). -/
def execSpGetSourceId (buffer : Option ByteSeq) (s : State) : Host.Outcome State Fault Refusal :=
  .next (s.respond (.sourceId (spGetSourceId buffer)))

/-- SP_HAS_SECONDARY_HEADER (R190). -/
def execSpHasSecondaryHeader (buffer : Option ByteSeq) (s : State) : Host.Outcome State Fault Refusal :=
  .next (s.respond (.flag (spHasSecondaryHeader buffer)))

/-- SP_GET_TIMESTAMP (R192). -/
def execSpGetTimestamp (buffer : Option ByteSeq) (s : State) : Host.Outcome State Fault Refusal :=
  .next (s.respond (.timestamp (spGetTimestamp buffer)))

/-- SP_UNPACK_HEADER (R195). -/
def execSpUnpackHeader (buffer : Option ByteSeq) (s : State) : Host.Outcome State Fault Refusal :=
  .next (s.respond (spUnpackHeader buffer))

end Sys2Proof.Machine
end

