-- ==== Sys2Proof/Machine/Dispatch.lean ====
section
/-! DEFINITION. `exec`: one arm per operation, each one direct call of its meaning. -/

namespace Sys2Proof.Machine

-- The meaning of one operation, applied to the state it is taken in (`00_scope.md` R8).
def exec (i : Instr) (s : State) : Host.Outcome State Fault Refusal :=
  match i with
  | .crc16 data => Sys2Proof.Machine.execCrc16 data s
  | .frameEncode payload length => Sys2Proof.Machine.execFrameEncode payload length s
  | .frameDecodeByte c b => Sys2Proof.Machine.execFrameDecodeByte c b s
  | .frameDecoderReset c => Sys2Proof.Machine.execFrameDecoderReset c s
  | .spWrap sourceId userData userDataLen nowMs => Sys2Proof.Machine.execSpWrap sourceId userData userDataLen nowMs s
  | .spGetSourceId buffer => Sys2Proof.Machine.execSpGetSourceId buffer s
  | .spHasSecondaryHeader buffer => Sys2Proof.Machine.execSpHasSecondaryHeader buffer s
  | .spGetTimestamp buffer => Sys2Proof.Machine.execSpGetTimestamp buffer s
  | .spUnpackHeader buffer => Sys2Proof.Machine.execSpUnpackHeader buffer s

end Sys2Proof.Machine
end

