-- ==== Sys2Proof/Machine/Step.lean ====
section
/-! DEFINITION. One step: the core takes the oldest request, decodes it and runs it to completion (`00_scope.md` R8;
`20_memory.md` R52, R60). -/

namespace Sys2Proof.Machine

/-- One step. The command byte is checked first (R215): a reserved one answers `Error(IllegalOperation)` (R75). With
no request pending the core idles (log 3). -/
def step (s : State) : Host.Outcome State Fault Refusal :=
  match takeRequest s with
  | none => .next (idle s)
  | some (r, t) =>
    match decode r with
    | .op i => exec i t
    | .reserved _ => .next (illegalOperation t)
    | .badRecord cmd => .refused (.operandFormat cmd)

/-- `s` with the request of the table word `w` as its oldest: the next step takes exactly it. The core has no program
memory (R62); what it fetches next is the oldest request the host has issued (log 5). -/
def State.withFetchWord (s : State) (_nbits w : Nat) : State :=
  { s with requests := wordRequest w :: s.requests }

end Sys2Proof.Machine
end

