-- ==== Sys2Proof/Safety.lean ====
section
/-! DEFINITION. What counts as a safe run, in the terms the statements use. -/

namespace Sys2Proof.Machine

/-- The invariant of the machine: at least one channel (`00_scope.md` R11) and every context as R33 says. -/
def State.Inv (s : State) : Prop :=
  1 ≤ s.ctx.length ∧ ∀ x ∈ s.ctx, x.wf = true

/-- The states a run of the core reaches: it comes up with any number of channels (R240, R243), the host issues any
requests at any time (R225), and the core takes its steps. -/
inductive State.Reachable : State → Prop where
  | powerOn (n : Nat) (h : 1 ≤ n) : State.Reachable (State.resetWith n)
  | hostIssues (s : State) (r : Request) (h : State.Reachable s) : State.Reachable (s.issue r)
  | coreSteps (s t : State) (h : State.Reachable s) (e : step s = .next t) : State.Reachable t

/-- FEED (R92) taken by the machine: the requests of `FEED c, bs` stand before whatever else is pending, and the core
takes one step for each. -/
def feed (c : Nat) (bs : ByteSeq) (s : State) : Host.Outcome State Fault Refusal :=
  Host.Core.run Sys2Proof.core bs.length { s with requests := feedRequests c bs ++ s.requests }

end Sys2Proof.Machine
end

