-- ==== Sys2Proof/Certificates/Slice0/Obligations.lean ====
section
/-! DEFINITION. The statements for the provers. `Sys2Proof.Spec` restates the spec's arithmetic in numbers, apart from
the model's own functions, so that a statement does not repeat the definition it is about. "D<n>" names a decision of
`92_eei_decisions.md`, "log <n>" a row of the assumption log. -/

namespace Sys2Proof.Spec

open Sys2Proof.Machine

/-- The big-endian value of a byte sequence (R15, R54). -/
def beNat (s : ByteSeq) : Nat := s.foldl (fun a b => a * 256 + b.toNat) 0

/-- The `k` big-endian bytes of a number, most significant first (R15, R54). -/
def beBytes (k v : Nat) : ByteSeq := (List.range k).map fun i => BitVec.ofNat 8 (v / 256 ^ (k - 1 - i))

/-- One round of R101 in numbers: shift left 1, drop bit 16, XOR 0x1021 if it was 1. -/
def crcRoundNat (v : Nat) : Nat := if 65536 ≤ 2 * v then (2 * v - 65536) ^^^ 0x1021 else 2 * v

/-- R101 in numbers: the byte into the top 8 bits, then 8 rounds. -/
def crcByteNat (crc : Nat) (b : Byte) : Nat := Nat.iterate crcRoundNat 8 (crc ^^^ (b.toNat * 256))

/-- R102 in numbers: the left fold from 0xFFFF, with no final step. -/
def crcNat (data : ByteSeq) : Nat := data.foldl crcByteNat 0xFFFF

/-- R103's bit-serial step: the feedback is the register's bit 15 XOR the data bit. -/
def crcSerialStep (crc : U16) (bit : Bool) : U16 :=
  if (crc.getLsbD 15 != bit) = true then (crc <<< 1) ^^^ 0x1021 else crc <<< 1

/-- R103's bit-serial form: the bits of the byte from bit 7 to bit 0. -/
def crcSerial (crc : U16) (b : Byte) : U16 :=
  [7, 6, 5, 4, 3, 2, 1, 0].foldl (fun r k => crcSerialStep r (b.getLsbD k)) crc

/-- R103's table: `T[i] = crc_update(0x0000, i)`. -/
def crcTable (i : Byte) : U16 := crcUpdate 0x0000 i

/-- The sequence with bit `k` of byte `i` flipped. -/
def flipBit (s : ByteSeq) (i k : Nat) : ByteSeq := s.set i (s.getD i 0 ^^^ BitVec.twoPow 8 k)

/-- R33, line by line. -/
def R33 (x : Context) : Prop :=
  (x.fill.toNat ≤ 64 ∧ x.crcIdx.toNat ≤ 1) ∧
  (x.state = .readLen ∨ x.state = .readPayload ∨ x.state = .verify → x.syncLatch = 0xAA) ∧
  (x.state = .readPayload → 1 ≤ x.expLen.toNat ∧ x.expLen.toNat ≤ 64 ∧ x.fill.toNat < x.expLen.toNat) ∧
  (x.state = .verify → 1 ≤ x.expLen.toNat ∧ x.expLen.toNat ≤ 64 ∧ x.fill.toNat = x.expLen.toNat) ∧
  (x.state = .verify ∧ x.crcIdx = 0 → x.rxCrc = 0x0000)

/-- The wire image of a frame record (R76, R81). -/
def frameWire (f : Frame) : ByteSeq := [f.sync, f.length] ++ f.payload ++ beBytes 2 f.crc.toNat

/-- The wire image of a space packet around `d` (R82, R83, R85). -/
def packetWire (sourceId : U16) (d : ByteSeq) (nowMs : U64) : ByteSeq :=
  beBytes 2 (0x1800 + sourceId.toNat % 2048) ++ beBytes 2 0xC000 ++ beBytes 2 (7 + d.length) ++
    beBytes 8 nowMs.toNat ++ d

/-- The channel an operation names, if it names one (R72). -/
def channel : Instr → Option Nat
  | .frameDecodeByte c _ => some c
  | .frameDecoderReset c => some c
  | .crc16 _ => none
  | .frameEncode _ _ => none
  | .spWrap _ _ _ _ => none
  | .spGetSourceId _ => none
  | .spHasSecondaryHeader _ => none
  | .spGetTimestamp _ => none
  | .spUnpackHeader _ => none

/-- R90's table: which response forms a request may get. -/
def mayAnswer : Decoded → Response → Prop
  | .op (.crc16 _), r => ∃ v, r = .crc v
  | .op (.frameEncode _ _), r => (∃ f, r = .encoded f (frameWire f)) ∨ r = .error .invalidArgument
  | .op (.frameDecodeByte _ _), r =>
    r = .incomplete ∨ (∃ p, r = .frameAccepted p ∧ 1 ≤ p.length ∧ p.length ≤ 64) ∨ r = .frameRejected ∨
      r = .error .invalidArgument
  | .op (.frameDecoderReset _), r => r = .ok ∨ r = .error .invalidArgument
  | .op (.spWrap _ _ n _), r => (∃ w, r = .packet w ∧ w.length = 14 + n) ∨ r = .error .invalidArgument
  | .op (.spGetSourceId _), r => ∃ v, r = .sourceId v ∧ v.toNat ≤ 0x7FF
  | .op (.spHasSecondaryHeader _), r => ∃ f, r = .flag f
  | .op (.spGetTimestamp _), r => ∃ t, r = .timestamp t
  | .op (.spUnpackHeader _), r => (∃ h, r = .header h) ∨ r = .undersized
  | .reserved _, r => r = .error .illegalOperation
  | .badRecord _, _ => False

end Sys2Proof.Spec

section
open Sys2Proof Sys2Proof.Machine

/-! ### The CRC engine -/

/-- R101, R102. CRC16 completes on every byte sequence in every state, answers the fold of R102, and changes nothing
but the responses. -/
def Obligations.Crc16AnswersTheFoldOfR102 : Prop :=
  ∀ (data : ByteSeq) (s : State), ∃ v : U16, v.toNat = Spec.crcNat data ∧
    exec (.crc16 data) s = .next { s with responses := s.responses ++ [.crc v] }

/-- R103 (which the spec derives from R101): the update equals its bit-serial and its table form, and the four table
entries R103 gives are right. -/
def Obligations.CrcUpdateEqualsItsSerialAndTableForms : Prop :=
  (∀ (crc : U16) (b : Byte), crcUpdate crc b = Spec.crcSerial crc b ∧
    crcUpdate crc b = (crc <<< 8) ^^^ Spec.crcTable (crc.extractLsb' 8 8 ^^^ b)) ∧
  Spec.crcTable 0x00 = 0x0000 ∧ Spec.crcTable 0x01 = 0x1021 ∧ Spec.crcTable 0x80 = 0x9188 ∧
    Spec.crcTable 0xFF = 0x1EF0

/-- R105 (derived in the spec): a message followed by its own CRC, high byte first, has CRC 0x0000; so has every whole
frame the encoder builds. -/
def Obligations.CrcOfAMessageWithItsCrcIsZero : Prop :=
  (∀ m : ByteSeq, crc16 (m ++ Spec.beBytes 2 (crc16 m).toNat) = 0x0000) ∧
  ∀ (p : ByteSeq) (s t : State) (f : Frame) (w : ByteSeq),
    exec (.frameEncode (some p) p.length) s = .next t → t.responses = s.responses ++ [.encoded f w] →
    crc16 w = 0x0000

/-- R106 (derived in the spec): two sequences of one length that differ in exactly one bit have different CRCs. -/
def Obligations.CrcDetectsEverySingleBitError : Prop :=
  ∀ (m : ByteSeq) (i k : Nat), i < m.length → k < 8 → crc16 (Spec.flipBit m i k) ≠ crc16 m

/-- R108: the two reference vectors, with the register after each byte. -/
def Obligations.CrcReferenceVectors : Prop :=
  (∀ s : State, exec (.crc16 [0x31, 0x32, 0x33, 0x34, 0x35, 0x36, 0x37, 0x38, 0x39]) s =
    .next { s with responses := s.responses ++ [.crc 0x29B1] }) ∧
  (∀ s : State, exec (.crc16 [0x01, 0x02, 0x03]) s = .next { s with responses := s.responses ++ [.crc 0xADAD] }) ∧
  (List.range 10).map (fun n => crc16 ([0x31, 0x32, 0x33, 0x34, 0x35, 0x36, 0x37, 0x38, 0x39].take n)) =
    [0xFFFF, 0xC782, 0x3DBA, 0x5BCE, 0x5349, 0x4560, 0x2EF4, 0x7718, 0xA12B, 0x29B1] ∧
  (List.range 4).map (fun n => crc16 ([0x01, 0x02, 0x03].take n)) = [0xFFFF, 0xF1D1, 0x0E7C, 0xADAD]

/-- R15: what each big-endian helper computes, in numbers. -/
def Obligations.BigEndianHelpersPutTheMostSignificantByteFirst : Prop :=
  (∀ b0 b1 : Byte, (be16 b0 b1).toNat = Spec.beNat [b0, b1]) ∧
  (∀ s : ByteSeq, s.length = 8 → (be64 s).toNat = Spec.beNat s) ∧
  (∀ v : U16, toBE16 v = Spec.beBytes 2 v.toNat) ∧ (∀ v : U64, toBE64 v = Spec.beBytes 8 v.toNat)

/-! ### The frame encoder -/

/-- R76, R81, R122. FRAME_ENCODE completes whenever 1 ≤ length ≤ 64 and the payload holds that many bytes; it answers
the frame record and its wire image, `length + 4` bytes, with the CRC over exactly [0xAA, length, payload]; nothing
but the responses changes. That the response carries both, by value, is D13 (log 8). -/
def Obligations.FrameEncodeBuildsTheFrame : Prop :=
  ∀ (data : ByteSeq) (length : Nat) (s : State), 1 ≤ length → length ≤ 64 → length ≤ data.length →
    ∃ crc : U16, crc.toNat = Spec.crcNat ([0xAA, BitVec.ofNat 8 length] ++ data.take length) ∧
      ([0xAA, BitVec.ofNat 8 length] ++ data.take length ++ Spec.beBytes 2 crc.toNat).length = 4 + length ∧
      exec (.frameEncode (some data) length) s =
        .next { s with responses := s.responses ++ [.encoded
          { sync := 0xAA, length := BitVec.ofNat 8 length, payload := data.take length, crc := crc }
          ([0xAA, BitVec.ofNat 8 length] ++ data.take length ++ Spec.beBytes 2 crc.toNat)] }

/-- R121, with the spec's decisions D5 (length 0) and D6 (null, short data): each of the four bad arguments answers
`Error(InvalidArgument)`, and nothing but the responses changes. -/
def Obligations.FrameEncodeAnswersInvalidArgument : Prop :=
  ∀ (payload : Option ByteSeq) (length : Nat) (s : State),
    (payload = none ∨ 64 < length ∨ length = 0 ∨ ∃ data, payload = some data ∧ data.length < length) →
    exec (.frameEncode payload length) s =
      .next { s with responses := s.responses ++ [.error .invalidArgument] }

/-- R125 (derived in the spec), R124: bytes at index `length` or beyond do not affect the result, whatever the state.
-/
def Obligations.FrameEncodeIgnoresBytesPastTheLength : Prop :=
  ∀ (p q : ByteSeq) (length : Nat), length ≤ p.length → length ≤ q.length → p.take length = q.take length →
    ∃ r : Response, ∀ s : State,
      exec (.frameEncode (some p) length) s = .next { s with responses := s.responses ++ [r] } ∧
      exec (.frameEncode (some q) length) s = .next { s with responses := s.responses ++ [r] }

/-! ### The frame decoder, arm by arm -/

/-- R141, with D7 (what "clear the working buffer" writes): in SEARCHING a sync byte is latched, the buffer cleared
and READ_LEN entered; any other byte changes no field. Incomplete in both cases; nothing else changes. That a sync
byte leaves the fields R141 does not name (`exp_len`, `fill`, `crc_idx`, `rx_crc`) as they were is D8 (log 11). -/
def Obligations.SearchingTakesOnlyTheSyncByte : Prop :=
  ∀ (s : State) (c : Nat) (x : Context) (b : Byte), s.ctx[c]? = some x → Spec.R33 x → x.state = .searching →
    exec (.frameDecodeByte c b) s =
      .next { s with
        ctx := s.ctx.set c
          (if b = 0xAA then { x with state := .readLen, syncLatch := b, buf := Vector.replicate 64 0x00 } else x)
        responses := s.responses ++ [.incomplete] }

/-- R142: in READ_LEN a byte in 1..64 becomes the expected length, the fill index is reset and READ_PAYLOAD entered; 0
or 65 and above goes back to SEARCHING and the byte is discarded, a 0xAA too. Incomplete in both cases. That the
fields R142 does not name keep their values is D8 (log 11). -/
def Obligations.ReadLenTakesOneToSixtyFour : Prop :=
  ∀ (s : State) (c : Nat) (x : Context) (b : Byte), s.ctx[c]? = some x → Spec.R33 x → x.state = .readLen →
    exec (.frameDecodeByte c b) s =
      .next { s with
        ctx := s.ctx.set c
          (if 1 ≤ b.toNat ∧ b.toNat ≤ 64 then { x with state := .readPayload, expLen := b, fill := 0 }
           else { x with state := .searching })
        responses := s.responses ++ [.incomplete] }

/-- R143: in READ_PAYLOAD every byte goes to `buf[fill]` and the fill index counts up; on reaching the expected length
the CRC sub-index and accumulator are reset and VERIFY is entered. Incomplete; no other byte of the buffer, no other
field (D8, log 11) and no other part of the state changes. -/
def Obligations.ReadPayloadAppendsTheByte : Prop :=
  ∀ (s : State) (c : Nat) (x : Context) (b : Byte), s.ctx[c]? = some x → Spec.R33 x → x.state = .readPayload →
    ∃ y : Context,
      exec (.frameDecodeByte c b) s =
        .next { s with ctx := s.ctx.set c y, responses := s.responses ++ [.incomplete] } ∧
      (∀ (j : Nat) (hj : j < 64), y.buf[j] = if j = x.fill.toNat then b else x.buf[j]) ∧
      y.fill.toNat = x.fill.toNat + 1 ∧ y.syncLatch = x.syncLatch ∧ y.expLen = x.expLen ∧
      (if x.fill.toNat + 1 = x.expLen.toNat then y.state = .verify ∧ y.crcIdx = 0 ∧ y.rxCrc = 0x0000
       else y.state = .readPayload ∧ y.crcIdx = x.crcIdx ∧ y.rxCrc = x.rxCrc)

/-- R144: the first CRC byte is the high byte, stored shifted left 8 bits. Incomplete; nothing else changes (the
fields R144 does not name: D8, log 11). -/
def Obligations.VerifyStoresTheHighCrcByte : Prop :=
  ∀ (s : State) (c : Nat) (x : Context) (b : Byte), s.ctx[c]? = some x → Spec.R33 x → x.state = .verify →
    x.crcIdx = 0 →
    exec (.frameDecodeByte c b) s =
      .next { s with
        ctx := s.ctx.set c { x with rxCrc := BitVec.ofNat 16 (b.toNat * 256), crcIdx := 1 }
        responses := s.responses ++ [.incomplete] }

/-- R145 with D8 (unnamed fields keep their values), R147 with D10 (one Deliver per FrameAccepted): the second CRC
byte is ORed in, the CRC of [sync, length, payload] compared, and SEARCHING entered regardless. A match accepts and
delivers the payload, a mismatch rejects the frame and emits nothing. -/
def Obligations.VerifyAcceptsExactlyOnACrcMatch : Prop :=
  ∀ (s : State) (c : Nat) (x : Context) (b : Byte), s.ctx[c]? = some x → Spec.R33 x → x.state = .verify →
    x.crcIdx = 1 →
    let y := { x with rxCrc := x.rxCrc ||| b.setWidth 16, state := .searching }
    let p := x.buf.toList.take x.expLen.toNat
    exec (.frameDecodeByte c b) s =
      .next (if Spec.crcNat ([x.syncLatch, x.expLen] ++ p) = y.rxCrc.toNat then
          { s with
            ctx := s.ctx.set c y
            responses := s.responses ++ [.frameAccepted p]
            events := s.events ++ [.deliver p x.expLen.toNat] }
        else { s with ctx := s.ctx.set c y, responses := s.responses ++ [.frameRejected] })

/-- R73, with D4 (the answer to a bad channel): a channel at or above NUM_CHANNELS answers `Error(InvalidArgument)`
and changes no context, for both operations that name a channel. -/
def Obligations.BadChannelAnswersInvalidArgument : Prop :=
  ∀ (s : State) (c : Nat) (b : Byte), s.ctx.length ≤ c →
    exec (.frameDecodeByte c b) s = .next { s with responses := s.responses ++ [.error .invalidArgument] } ∧
    exec (.frameDecoderReset c) s = .next { s with responses := s.responses ++ [.error .invalidArgument] }

/-- R35, with D31: FRAME_DECODE_BYTE on a legal channel whose context breaks R33 ends in `fault(ContextInvariant)`. -/
def Obligations.BrokenContextFaults : Prop :=
  ∀ (s : State) (c : Nat) (x : Context) (b : Byte), s.ctx[c]? = some x → ¬ Spec.R33 x →
    exec (.frameDecodeByte c b) s = .fault .contextInvariant

/-- R33 (derived in the spec): the check the model makes is R33, line by line. -/
def Obligations.TheContextCheckIsR33 : Prop :=
  ∀ x : Context, x.wf = true ↔ Spec.R33 x

/-- R148 (derived in the spec): on a legal channel whose context keeps R33, exactly one of the three decoder results
comes back, and only the second CRC byte gives FrameAccepted or FrameRejected. -/
def Obligations.OnlyTheLastCrcByteEndsAFrame : Prop :=
  ∀ (s : State) (c : Nat) (x : Context) (b : Byte), s.ctx[c]? = some x → Spec.R33 x →
    ∃ (t : State) (r : Response), exec (.frameDecodeByte c b) s = .next t ∧ t.responses = s.responses ++ [r] ∧
      (r = .incomplete ∨ (∃ p, r = .frameAccepted p) ∨ r = .frameRejected) ∧
      (r = .incomplete ↔ ¬ (x.state = .verify ∧ x.crcIdx = 1))

/-- R146: in every context that reaches the comparison the latched sync byte is 0xAA, so the validation range is
[0xAA, exp_len] ++ payload, 2 + exp_len bytes: the range the encoder's CRC covers. -/
def Obligations.DecoderAndEncoderShareTheValidationRange : Prop :=
  ∀ x : Context, Spec.R33 x → x.state = .verify →
    x.syncLatch = 0xAA ∧
    validationRange x.syncLatch x.expLen x.payload = [0xAA, x.expLen] ++ x.buf.toList.take x.expLen.toNat ∧
    (validationRange x.syncLatch x.expLen x.payload).length = 2 + x.expLen.toNat ∧
    (frameOf x.expLen x.payload).crc = crc16 (validationRange x.syncLatch x.expLen x.payload)

/-! ### Reset -/

/-- R150, with D9 (the values of the fields the source does not name): FRAME_DECODER_RESET completes on every legal
channel, a context that breaks R33 included; it writes the values of R36, answers Ok, emits nothing and touches no
other channel. -/
def Obligations.DecoderResetWritesTheResetValues : Prop :=
  ∀ (s : State) (c : Nat), c < s.ctx.length →
    exec (.frameDecoderReset c) s =
      .next { s with
        ctx := s.ctx.set c
          { state := .searching, syncLatch := 0x00, buf := Vector.replicate 64 0x00, expLen := 0, fill := 0,
            crcIdx := 0, rxCrc := 0x0000 }
        responses := s.responses ++ [.ok] }

/-- R53 (derived in the spec): a second reset in a row leaves the contexts the first one produced. -/
def Obligations.DecoderResetIsIdempotent : Prop :=
  ∀ (s : State) (c : Nat), ∃ t u : State, exec (.frameDecoderReset c) s = .next t ∧
    exec (.frameDecoderReset c) t = .next u ∧ u.ctx = t.ctx ∧ u.events = s.events

/-- R241 (derived in the spec), with D9 (the reset values, log 11): resetting every channel in turn leaves every
context as power-on does. -/
def Obligations.ResettingEveryChannelIsPowerOn : Prop :=
  ∀ s : State,
    Host.Core.run Sys2Proof.core s.ctx.length
        { s with requests :=
            (List.range s.ctx.length).map (fun c => encode (.frameDecoderReset c)) ++ s.requests } =
      .next { s with
        ctx := (State.resetWith s.ctx.length).ctx
        responses := s.responses ++ List.replicate s.ctx.length .ok }

/-- R240 and R36, with D9: as the core comes up with `n` channels, every context holds the values of R36. That no
request is pending and nothing has been answered is the model's choice (log 2), and that `State.reset` has two
channels is too (log 1). -/
def Obligations.PowerOnStateHoldsTheResetValues : Prop :=
  (∀ (n c : Nat), c < n → (State.resetWith n).ctx[c]? = some
    { state := .searching, syncLatch := 0x00, buf := Vector.replicate 64 0x00, expLen := 0, fill := 0,
      crcIdx := 0, rxCrc := 0x0000 }) ∧
  (∀ n : Nat, (State.resetWith n).ctx.length = n ∧ (State.resetWith n).requests = [] ∧
    (State.resetWith n).responses = [] ∧ (State.resetWith n).events = []) ∧
  State.reset = State.resetWith 2

/-! ### The machine -/

/-- R33 (derived in the spec): every step keeps the invariant: at least one channel, and every context as R33 says.
The number of channels never changes (R243). -/
def Obligations.EveryStepKeepsTheInvariant : Prop :=
  ∀ s t : State, s.Inv → step s = .next t → t.Inv ∧ t.ctx.length = s.ctx.length

/-- R33: it holds as the core comes up, with any number of channels. -/
def Obligations.TheInvariantHoldsAtPowerOn : Prop :=
  (∀ n : Nat, 1 ≤ n → (State.resetWith n).Inv) ∧ State.reset.Inv

/-- R35, R225 (derived in the spec): in every state a run reaches, whatever the host issues and however many channels
there are, every context keeps R33 and no step faults. -/
def Obligations.NoRunReachesAFault : Prop :=
  ∀ s : State, s.Reachable → (∀ x ∈ s.ctx, Spec.R33 x) ∧ ∀ f : Fault, step s ≠ .fault f

/-- R35, R213, with D31: a step faults exactly when the oldest request is a FRAME_DECODE_BYTE for a legal channel
whose context breaks R33, and the fault is ContextInvariant. -/
def Obligations.StepFaultsExactlyOnABrokenContext : Prop :=
  ∀ (s : State) (f : Fault), step s = .fault f ↔
    f = .contextInvariant ∧ ∃ (c : Nat) (b : Byte) (rest : List Request) (x : Context),
      s.requests = encode (.frameDecodeByte c b) :: rest ∧ s.ctx[c]? = some x ∧ ¬ Spec.R33 x

/-- The model's choice (log 4) on R72: a step refuses exactly when the oldest request carries a record that is not of
its command byte's format, which R72 says cannot be sent. -/
def Obligations.StepRefusesExactlyUnsendableRequests : Prop :=
  ∀ (s : State) (q : Refusal), step s = .refused q ↔
    ∃ (r : Request) (rest : List Request), s.requests = r :: rest ∧ r.wf = false ∧ q = .operandFormat r.cmd

/-- R90, R60, with D1: where every context keeps R33, a step on a request that can be sent takes the oldest request,
and answers exactly once, in a form R90's table gives that request. -/
def Obligations.EveryRequestGetsExactlyOneResponse : Prop :=
  ∀ (s : State) (r : Request) (rest : List Request), s.requests = r :: rest → r.wf = true →
    (∀ x ∈ s.ctx, Spec.R33 x) →
    ∃ (t : State) (resp : Response) (es : List Event), step s = .next t ∧ t.requests = rest ∧
      t.responses = s.responses ++ [resp] ∧ t.events = s.events ++ es ∧ Spec.mayAnswer (decode r) resp

/-- R8, R60: a step whose oldest request decodes to an operation runs exactly it, on the state with that request
taken. -/
def Obligations.StepRunsTheDecodedOperation : Prop :=
  ∀ (s : State) (r : Request) (rest : List Request) (i : Instr), s.requests = r :: rest → decode r = .op i →
    step s = exec i { s with requests := rest }

/-- R75, with D3: a reserved command byte answers `Error(IllegalOperation)` whatever record stands beside it; no
context changes and no event is emitted. -/
def Obligations.ReservedCommandAnswersIllegalOperation : Prop :=
  ∀ (s : State) (cmd : Byte) (ops : OperandRecord) (rest : List Request), s.requests = ⟨cmd, ops⟩ :: rest →
    (cmd.toNat = 0 ∨ 10 ≤ cmd.toNat) →
    step s = .next { s with requests := rest, responses := s.responses ++ [.error .illegalOperation] }

/-- The model's choice (log 3): with no request pending a step changes nothing. -/
def Obligations.StepIdlesWithoutARequest : Prop :=
  ∀ s : State, s.requests = [] → step s = .next s

/-! ### Requests -/

/-- R70 to R72, with D2 (the command bytes are the spec's own): decoding and encoding agree in both directions, with
every operand at every value. -/
def Obligations.DecodeAndEncodeAgree : Prop :=
  ∀ (r : Request) (i : Instr), decode r = .op i ↔ r = encode i

/-- R75, with D3: every command byte is one of the nine operations or reserved; a record of another format is neither
(R72; log 4). -/
def Obligations.DecodingIsTotalOnTheCommandByte : Prop :=
  ∀ r : Request,
    if 1 ≤ r.cmd.toNat ∧ r.cmd.toNat ≤ 9 then
      (if r.wf = true then ∃ i : Instr, decode r = .op i else decode r = .badRecord r.cmd)
    else decode r = .reserved r.cmd

/-- R71, with D2: the command bytes, bit by bit, with their operand records. -/
def Obligations.CommandBytesDecodeAsTheTableSays : Prop :=
  decode ⟨0b00000001, .seq [0x01, 0x02]⟩ = .op (.crc16 [0x01, 0x02]) ∧
  decode ⟨0b00000010, .enc (some [0x01]) 1⟩ = .op (.frameEncode (some [0x01]) 1) ∧
  decode ⟨0b00000011, .dec 1 0xAA⟩ = .op (.frameDecodeByte 1 0xAA) ∧
  decode ⟨0b00000100, .ch 1⟩ = .op (.frameDecoderReset 1) ∧
  decode ⟨0b00000101, .wrap 0x010 (some [0xDE]) 1 100⟩ = .op (.spWrap 0x010 (some [0xDE]) 1 100) ∧
  decode ⟨0b00000110, .buf (some [0x18])⟩ = .op (.spGetSourceId (some [0x18])) ∧
  decode ⟨0b00000111, .buf (some [0x18])⟩ = .op (.spHasSecondaryHeader (some [0x18])) ∧
  decode ⟨0b00001000, .buf none⟩ = .op (.spGetTimestamp none) ∧
  decode ⟨0b00001001, .buf none⟩ = .op (.spUnpackHeader none) ∧
  decode ⟨0b00000000, .absent⟩ = .reserved 0x00 ∧ decode ⟨0b00001010, .absent⟩ = .reserved 0x0A

/-! ### Independence and order -/

/-- R28: an operation writes no context but its channel's, and reads no other: what it answers, emits and writes (or
that it faults) depends on that context alone. An operation that names no channel reads and writes none. -/
def Obligations.AnOperationTouchesOnlyItsChannel : Prop :=
  (∀ (i : Instr) (s t : State), exec i s = .next t →
    t.requests = s.requests ∧ t.ctx.length = s.ctx.length ∧
    ∀ c : Nat, Spec.channel i ≠ some c → t.ctx[c]? = s.ctx[c]?) ∧
  (∀ (i : Instr) (s u : State), (∀ c, Spec.channel i = some c → s.ctx[c]? = u.ctx[c]?) →
    (∀ t, exec i s = .next t → ∃ (v : State) (r : Response) (es : List Event), exec i u = .next v ∧
      t.responses = s.responses ++ [r] ∧ v.responses = u.responses ++ [r] ∧
      t.events = s.events ++ es ∧ v.events = u.events ++ es ∧
      ∀ c, Spec.channel i = some c → t.ctx[c]? = v.ctx[c]?) ∧
    ∀ f, exec i s = .fault f → exec i u = .fault f)

/-- R34 (with D3), R124, R180: an operation that names no channel is pure: its one response is the same in every
state, and every context, the queue and the events stay. -/
def Obligations.OperationsWithoutAChannelArePure : Prop :=
  ∀ i : Instr, Spec.channel i = none →
    ∃ r : Response, ∀ s : State, exec i s = .next { s with responses := s.responses ++ [r] }

/-- R210, R216, with D27: an `Error(kind)` response leaves every context and every event as before the operation. -/
def Obligations.AnErrorResponseChangesNothingElse : Prop :=
  ∀ (i : Instr) (s t : State) (k : ErrorKind), exec i s = .next t → t.responses = s.responses ++ [.error k] →
    t = { s with responses := s.responses ++ [.error k] }

/-- R147 and R222, with D10: exactly one event for each FrameAccepted, in the same step, with the same bytes and their
length, 1 to 64; no event otherwise. -/
def Obligations.DeliverExactlyWhenAccepted : Prop :=
  ∀ (i : Instr) (s t : State), exec i s = .next t →
    ∃ r : Response, t.responses = s.responses ++ [r] ∧
      (∀ p, r = .frameAccepted p →
        t.events = s.events ++ [.deliver p p.length] ∧ 1 ≤ p.length ∧ p.length ≤ 64) ∧
      ((∀ p, r ≠ .frameAccepted p) → t.events = s.events)

/-- R60, with D25: requests that do not name one channel commute. Run in either order they leave the same contexts,
and each gets the same response and emits the same events. -/
def Obligations.RequestsOnDifferentChannelsCommute : Prop :=
  ∀ (i j : Instr) (s t u : State),
    (Spec.channel i = none ∨ Spec.channel j = none ∨ Spec.channel i ≠ Spec.channel j) →
    exec i s = .next t → exec j t = .next u →
    ∃ (v w : State) (ri rj : Response) (ei ej : List Event), exec j s = .next v ∧ exec i v = .next w ∧
      w.ctx = u.ctx ∧
      t.responses = s.responses ++ [ri] ∧ u.responses = t.responses ++ [rj] ∧
      v.responses = s.responses ++ [rj] ∧ w.responses = v.responses ++ [ri] ∧
      t.events = s.events ++ ei ∧ u.events = t.events ++ ej ∧
      v.events = s.events ++ ej ∧ w.events = v.events ++ ei

/-! ### Byte streams -/

/-- R148 (derived in the spec), R80, R144, R145: whatever frame-shaped stream `AA L p h l` is fed to a context in
SEARCHING, L + 3 Incomplete responses come first, then FrameAccepted(p) with one Deliver exactly if the received CRC
is the CRC of [AA, L] ++ p, else FrameRejected. The end context is the one of the spec's vectors; no other context and
no pending request changes. Its buffer's zeros past the payload are D7, the fields the last byte keeps (`sync_latch`,
`exp_len`, `fill`, `crc_idx`, the buffer) are D8, and the one Deliver is D10 (log 11). -/
def Obligations.AFrameShapedStreamIsJudgedByItsCrc : Prop :=
  ∀ (s : State) (c : Nat) (x : Context) (p : ByteSeq) (h l : Byte), s.ctx[c]? = some x → Spec.R33 x →
    x.state = .searching → 1 ≤ p.length → p.length ≤ 64 →
    ∃ y : Context, y.state = .searching ∧ y.syncLatch = 0xAA ∧ y.expLen.toNat = p.length ∧
      y.fill.toNat = p.length ∧ y.crcIdx = 1 ∧ y.rxCrc.toNat = h.toNat * 256 + l.toNat ∧
      y.buf.toList = p ++ List.replicate (64 - p.length) 0x00 ∧
      feed c ([0xAA, BitVec.ofNat 8 p.length] ++ p ++ [h, l]) s =
        .next (if h.toNat * 256 + l.toNat = Spec.crcNat ([0xAA, BitVec.ofNat 8 p.length] ++ p) then
          { s with
            ctx := s.ctx.set c y
            responses := s.responses ++ List.replicate (p.length + 3) .incomplete ++ [.frameAccepted p]
            events := s.events ++ [.deliver p p.length] }
        else
          { s with
            ctx := s.ctx.set c y
            responses := s.responses ++ List.replicate (p.length + 3) .incomplete ++ [.frameRejected] })

/-- R154, R127 (derived in the spec): for every payload of 1 to 64 bytes, feeding the wire bytes FRAME_ENCODE answers
to a context in SEARCHING gives L + 3 Incomplete responses, then FrameAccepted of that payload and one Deliver (D10,
log 11), and the context ends in SEARCHING. The wire bytes are given by value (D13, log 8). -/
def Obligations.EveryEncodedFrameIsAccepted : Prop :=
  ∀ (s : State) (c : Nat) (x : Context) (p : ByteSeq), s.ctx[c]? = some x → Spec.R33 x → x.state = .searching →
    1 ≤ p.length → p.length ≤ 64 →
    ∃ (f : Frame) (w : ByteSeq) (y : Context),
      exec (.frameEncode (some p) p.length) s = .next { s with responses := s.responses ++ [.encoded f w] } ∧
      w.length = p.length + 4 ∧ y.state = .searching ∧
      feed c w s = .next { s with
        ctx := s.ctx.set c y
        responses := s.responses ++ List.replicate (p.length + 3) .incomplete ++ [.frameAccepted p]
        events := s.events ++ [.deliver p p.length] }

/-- R153, first part (derived in the spec; C2 restricts the source's property to it): an encoded frame with any one
bit of its payload or CRC bytes flipped (offsets 2 to L + 3, not the sync or the length byte), fed to a context in
SEARCHING, ends in FrameRejected, with nothing delivered (D10, log 11) and the context back in SEARCHING. -/
def Obligations.AnyPayloadOrCrcBitFlipIsRejected : Prop :=
  ∀ (s : State) (c : Nat) (x : Context) (p : ByteSeq) (i k : Nat), s.ctx[c]? = some x → Spec.R33 x →
    x.state = .searching → 1 ≤ p.length → p.length ≤ 64 → 2 ≤ i → i < p.length + 4 → k < 8 →
    ∃ (f : Frame) (w : ByteSeq) (y : Context),
      exec (.frameEncode (some p) p.length) s = .next { s with responses := s.responses ++ [.encoded f w] } ∧
      y.state = .searching ∧
      feed c (Spec.flipBit w i k) s = .next { s with
        ctx := s.ctx.set c y
        responses := s.responses ++ List.replicate (p.length + 3) .incomplete ++ [.frameRejected] }

/-- R152 (derived in the spec), its two kinds of noise: bytes none of which is 0xAA, or the two bytes `AA x` with x =
0 or x at least 65. Before an encoded frame they do not keep it from being accepted, with one Deliver (D10, log 11);
every earlier response is Incomplete. Nothing is said of other noise (R155). -/
def Obligations.NonSyncNoiseOrABadLengthDoesNotLoseTheNextFrame : Prop :=
  ∀ (s : State) (c : Nat) (x : Context) (noise p : ByteSeq), s.ctx[c]? = some x → Spec.R33 x →
    x.state = .searching → 1 ≤ p.length → p.length ≤ 64 →
    ((∀ b ∈ noise, b ≠ 0xAA) ∨ ∃ z : Byte, noise = [0xAA, z] ∧ (z = 0 ∨ 65 ≤ z.toNat)) →
    ∃ (f : Frame) (w : ByteSeq) (y : Context),
      exec (.frameEncode (some p) p.length) s = .next { s with responses := s.responses ++ [.encoded f w] } ∧
      y.state = .searching ∧
      feed c (noise ++ w) s = .next { s with
        ctx := s.ctx.set c y
        responses := s.responses ++ List.replicate (noise.length + (p.length + 3)) .incomplete ++ [.frameAccepted p]
        events := s.events ++ [.deliver p p.length] }

/-- R151 (derived in the spec): whatever 67 bytes follow, a context not in SEARCHING is back in SEARCHING after at
most 67 of them, without a fault. -/
def Obligations.TheDecoderNeverLocksUp : Prop :=
  ∀ (s : State) (c : Nat) (x : Context) (bs : ByteSeq), s.ctx[c]? = some x → Spec.R33 x → x.state ≠ .searching →
    bs.length = 67 →
    ∃ (k : Nat) (t : State) (y : Context), 1 ≤ k ∧ k ≤ 67 ∧ feed c (bs.take k) s = .next t ∧
      t.ctx[c]? = some y ∧ y.state = .searching

/-- R37 (derived in the spec): of a context in SEARCHING no field but `state` can be observed: with any other values
R33 allows in them, every byte sequence gives the same responses and the same events. -/
def Obligations.ASearchingContextIsUnobservable : Prop :=
  ∀ (s : State) (c : Nat) (x y : Context) (bs : ByteSeq), s.ctx[c]? = some x → Spec.R33 x → Spec.R33 y →
    x.state = .searching → y.state = .searching →
    ∃ t u : State, feed c bs s = .next t ∧ feed c bs { s with ctx := s.ctx.set c y } = .next u ∧
      t.responses = u.responses ∧ t.events = u.events

/-- R141 and R250 (derived in the spec): bytes that are not 0xAA, fed to a context in SEARCHING, change nothing but
the responses; the buffer keeps the last accepted payload. -/
def Obligations.NoiseKeepsTheContext : Prop :=
  ∀ (s : State) (c : Nat) (x : Context) (noise : ByteSeq), s.ctx[c]? = some x → Spec.R33 x →
    x.state = .searching → (∀ b ∈ noise, b ≠ 0xAA) →
    feed c noise s = .next { s with responses := s.responses ++ List.replicate noise.length .incomplete }

/-! ### The space-packet codec -/

/-- R82, R183. SP_WRAP completes whenever the user data hold `n` bytes and `n` is at most 65528; it answers the packet
of R82 around the first `n` bytes, and nothing but the responses changes. That it is given by value is D13 (log 8). -/
def Obligations.SpWrapBuildsThePacket : Prop :=
  ∀ (sourceId : U16) (data : ByteSeq) (n : Nat) (nowMs : U64) (s : State), n ≤ data.length → n ≤ 65528 →
    (Spec.packetWire sourceId (data.take n) nowMs).length = 14 + n ∧
    exec (.spWrap sourceId (some data) n nowMs) s =
      .next { s with responses := s.responses ++ [.packet (Spec.packetWire sourceId (data.take n) nowMs)] }

/-- R184, with D12 (the source states no failure of `wrap`): each of the three bad arguments answers
`Error(InvalidArgument)`, and nothing but the responses changes. -/
def Obligations.SpWrapAnswersInvalidArgument : Prop :=
  ∀ (sourceId : U16) (userData : Option ByteSeq) (n : Nat) (nowMs : U64) (s : State),
    (userData = none ∨ 65528 < n ∨ ∃ data, userData = some data ∧ data.length < n) →
    exec (.spWrap sourceId userData n nowMs) s =
      .next { s with responses := s.responses ++ [.error .invalidArgument] }

/-- R187, R188, with D14 (two bytes are enough) and D15 (the sentinel): SP_GET_SOURCE_ID completes on every buffer,
with the low 11 bits of the big-endian first two bytes, or 0 where there are none. -/
def Obligations.SpGetSourceIdReadsTheApid : Prop :=
  ∀ (buffer : Option ByteSeq) (s : State), ∃ v : U16,
    v.toNat = (match buffer with
      | some (b0 :: b1 :: _) => (b0.toNat * 256 + b1.toNat) % 2048
      | _ => 0) ∧
    exec (.spGetSourceId buffer) s = .next { s with responses := s.responses ++ [.sourceId v] }

/-- R190, R191, with D14 and D15: SP_HAS_SECONDARY_HEADER completes on every buffer, with bit 3 of the first byte, or
false where there are no two bytes. -/
def Obligations.SpHasSecondaryHeaderReadsBitEleven : Prop :=
  ∀ (buffer : Option ByteSeq) (s : State), ∃ f : Bool,
    (f = true ↔ match buffer with
      | some (b0 :: _ :: _) => b0.toNat / 8 % 2 = 1
      | _ => False) ∧
    exec (.spHasSecondaryHeader buffer) s = .next { s with responses := s.responses ++ [.flag f] }

/-- R192, R193, with D18 (the operation is the spec's completion): SP_GET_TIMESTAMP completes on every buffer, with
bytes 6 to 13 big-endian where there are 14 bytes and the flag is set, else with 0. -/
def Obligations.SpGetTimestampReadsTheTime : Prop :=
  ∀ (buffer : Option ByteSeq) (s : State), ∃ t : U64,
    t.toNat = (match buffer with
      | some w => if 14 ≤ w.length ∧ (w.getD 0 0).toNat / 8 % 2 = 1 then Spec.beNat ((w.drop 6).take 8) else 0
      | none => 0) ∧
    exec (.spGetTimestamp buffer) s = .next { s with responses := s.responses ++ [.timestamp t] }

/-- R195, R196, with D19 (the operation is the spec's completion): SP_UNPACK_HEADER completes on every buffer. With 6
bytes or more it answers every header field as found, the time exactly when the flag is set and there are 14 bytes. -/
def Obligations.SpUnpackHeaderReadsEveryField : Prop :=
  (∀ (w : ByteSeq) (s : State), 6 ≤ w.length → ∃ h : Header,
    h.version.toNat = Spec.beNat (w.take 2) / 8192 ∧ h.kind.toNat = Spec.beNat (w.take 2) / 4096 % 2 ∧
    h.sec.toNat = Spec.beNat (w.take 2) / 2048 % 2 ∧ h.apid.toNat = Spec.beNat (w.take 2) % 2048 ∧
    h.seq.toNat = Spec.beNat ((w.drop 2).take 2) ∧ h.plen.toNat = Spec.beNat ((w.drop 4).take 2) ∧
    h.time.map BitVec.toNat =
      (if h.sec = 1 ∧ 14 ≤ w.length then some (Spec.beNat ((w.drop 6).take 8)) else none) ∧
    exec (.spUnpackHeader (some w)) s = .next { s with responses := s.responses ++ [.header h] }) ∧
  ∀ (buffer : Option ByteSeq) (s : State), (buffer = none ∨ ∃ w, buffer = some w ∧ w.length < 6) →
    exec (.spUnpackHeader buffer) s = .next { s with responses := s.responses ++ [.undersized] }

/-- R197 (derived in the spec), with D13 (the packet by value, log 8), D18 and D19 (the time stamp and header
operations, log 11): every decoder reads back from a wrapped packet what SP_WRAP put into it. -/
def Obligations.AWrappedPacketReadsBack : Prop :=
  ∀ (sourceId : U16) (data : ByteSeq) (nowMs : U64) (s : State), data.length ≤ 65528 →
    ∃ w : ByteSeq,
      exec (.spWrap sourceId (some data) data.length nowMs) s =
        .next { s with responses := s.responses ++ [.packet w] } ∧
      exec (.spGetSourceId (some w)) s =
        .next { s with responses := s.responses ++ [.sourceId (sourceId &&& 0x7FF)] } ∧
      exec (.spHasSecondaryHeader (some w)) s = .next { s with responses := s.responses ++ [.flag true] } ∧
      exec (.spGetTimestamp (some w)) s = .next { s with responses := s.responses ++ [.timestamp nowMs] } ∧
      exec (.spUnpackHeader (some w)) s = .next { s with responses := s.responses ++ [.header
        { version := 0, kind := 1, sec := 1, apid := sourceId.setWidth 11, seq := 0xC000,
          plen := BitVec.ofNat 16 (7 + data.length), time := some nowMs }] } ∧
      (w.drop 14).take data.length = data

/-- R194 (derived in the spec), with D18 (the operation, log 11): SP_GET_TIMESTAMP gives a value other than its
sentinel only on a buffer on which SP_HAS_SECONDARY_HEADER gives true. -/
def Obligations.ATimestampImpliesASecondaryHeader : Prop :=
  ∀ (buffer : Option ByteSeq) (s t : State) (v : U64), exec (.spGetTimestamp buffer) s = .next t →
    t.responses = s.responses ++ [.timestamp v] → v ≠ 0 →
    exec (.spHasSecondaryHeader buffer) s = .next { s with responses := s.responses ++ [.flag true] }

/-- R87 (derived in the spec), R4: a packet of at most 50 user-data bytes goes through one frame: wrapped, encoded and
fed to a context in SEARCHING it is accepted and delivered byte for byte. One of more is too long for a frame.
The one Deliver is D10 (log 11), the bytes by value D13 (log 8). -/
def Obligations.APacketOfFiftyBytesFitsAFrame : Prop :=
  ∀ (s : State) (c : Nat) (x : Context) (sourceId : U16) (data : ByteSeq) (nowMs : U64), s.ctx[c]? = some x →
    Spec.R33 x → x.state = .searching → data.length ≤ 65528 →
    ∃ w : ByteSeq,
      exec (.spWrap sourceId (some data) data.length nowMs) s =
        .next { s with responses := s.responses ++ [.packet w] } ∧
      if data.length ≤ 50 then
        ∃ (f : Frame) (v : ByteSeq) (y : Context),
          exec (.frameEncode (some w) w.length) s = .next { s with responses := s.responses ++ [.encoded f v] } ∧
          feed c v s = .next { s with
            ctx := s.ctx.set c y
            responses := s.responses ++ List.replicate (w.length + 3) .incomplete ++ [.frameAccepted w]
            events := s.events ++ [.deliver w w.length] }
      else
        exec (.frameEncode (some w) w.length) s =
          .next { s with responses := s.responses ++ [.error .invalidArgument] }

/-! ### Names -/

/-- R26 (with D21) and R211 (with D27): the spec's numbers for the four states and the four errors. No response
carries them. -/
def Obligations.StatesAndErrorsHaveTheSpecsCodes : Prop :=
  DecoderState.searching.code = 0 ∧ DecoderState.readLen.code = 1 ∧ DecoderState.readPayload.code = 2 ∧
  DecoderState.verify.code = 3 ∧ CoreError.malformedLength.code = 0x10 ∧ CoreError.checksumMismatch.code = 0x11 ∧
  CoreError.invalidArgument.code = 0x01 ∧ CoreError.illegalOperation.code = 0x02

end
end

