-- ==== Sys2Proof/Laws/Crc.lean ====
section
/-! SUPPORT. The CRC engine as a linear map: what the laws of `40_crc16.md` section 3 rest on. -/

namespace Sys2Proof.Machine

/-- The bit a round shifts out, as a comparison. -/
theorem getLsbD_fifteen (crc : U16) : crc.getLsbD 15 = decide (32768 ≤ crc.toNat) := by
  rw [show crc.getLsbD 15 = crc.msb from (BitVec.msb_eq_getLsbD_last crc).symm, BitVec.msb_eq_decide]

/-- R101 in numbers: a round doubles the register, drops bit 16, and XORs the polynomial if it was set. -/
theorem crcRound_toNat (crc : U16) :
    (crcRound crc).toNat = if 32768 ≤ crc.toNat then (2 * crc.toNat - 65536) ^^^ 0x1021 else 2 * crc.toNat := by
  have hlt := crc.isLt
  have hs : (crc <<< 1).toNat = 2 * crc.toNat % 65536 := by
    rw [BitVec.toNat_shiftLeft, Nat.shiftLeft_eq]; omega
  rw [crcRound, getLsbD_fifteen]
  by_cases h : 32768 ≤ crc.toNat
  · rw [if_pos (by simpa using h), if_pos h, BitVec.toNat_xor, hs,
      show 2 * crc.toNat % 65536 = 2 * crc.toNat - 65536 by omega]
    rfl
  · rw [if_neg (by simpa using h), if_neg h, hs, Nat.mod_eq_of_lt (by omega)]

/-- A round is linear over XOR. -/
theorem crcRound_xor (a b : U16) : crcRound (a ^^^ b) = crcRound a ^^^ crcRound b := by
  have hp : ∀ p u v : U16, u ^^^ p ^^^ (v ^^^ p) = u ^^^ v := by
    intro p u v
    rw [BitVec.xor_assoc, BitVec.xor_comm v p, ← BitVec.xor_assoc p p v, BitVec.xor_self, BitVec.zero_xor]
  unfold crcRound
  rw [BitVec.getLsbD_xor, BitVec.shiftLeft_xor_distrib]
  cases a.getLsbD 15 <;> cases b.getLsbD 15
  · simp
  · simp [BitVec.xor_assoc]
  · simp only [Bool.bne_false, if_true, Bool.false_eq_true, if_false]
    ac_rfl
  · simp [hp]

theorem crcRounds_xor (n : Nat) (a b : U16) : crcRounds n (a ^^^ b) = crcRounds n a ^^^ crcRounds n b := by
  induction n generalizing a b with
  | zero => rfl
  | succ n ih => rw [crcRounds, crcRounds, crcRounds, crcRound_xor, ih]

theorem crcRounds_zero (n : Nat) : crcRounds n 0 = 0 := by
  induction n with
  | zero => rfl
  | succ n ih => rw [crcRounds, show crcRound 0 = 0 by decide, ih]

/-- The update of R101 is linear in the register and the byte together. -/
theorem crcUpdate_xor (a b : U16) (x y : Byte) :
    crcUpdate (a ^^^ b) (x ^^^ y) = crcUpdate a x ^^^ crcUpdate b y := by
  have h : zext16 (x ^^^ y) <<< 8 = (zext16 x <<< 8) ^^^ (zext16 y <<< 8) := by
    rw [← BitVec.shiftLeft_xor_distrib, zext16, zext16, zext16, BitVec.setWidth_xor]
  rw [crcUpdate, crcUpdate, crcUpdate, ← crcRounds_xor, h]
  congr 1
  ac_rfl

/-- The polynomial has bit 0 set, so a round loses no information. -/
theorem crcRound_eq_zero {a : U16} (h : crcRound a = 0) : a = 0 := by
  have hn := congrArg BitVec.toNat h
  rw [crcRound_toNat] at hn
  apply BitVec.eq_of_toNat_eq
  have hlt := a.isLt
  by_cases hc : 32768 ≤ a.toNat
  · rw [if_pos hc] at hn
    have := (Nat.xor_eq_zero_iff).mp hn
    omega
  · rw [if_neg hc] at hn
    simp at hn ⊢
    omega

theorem crcRounds_eq_zero {n : Nat} {a : U16} (h : crcRounds n a = 0) : a = 0 := by
  induction n generalizing a with
  | zero => exact h
  | succ n ih => exact crcRound_eq_zero (ih h)

/-- Folding in a zero byte loses no information either. -/
theorem crcUpdate_zero_eq_zero {a : U16} (h : crcUpdate a 0 = 0) : a = 0 := by
  have := crcRounds_eq_zero h
  simpa [zext16] using this

/-- A fold over `s ++ t` goes on from the register `s` leaves (R102). -/
theorem crc16_append (s t : ByteSeq) : crc16 (s ++ t) = t.foldl crcUpdate (crc16 s) := by
  rw [crc16, crc16, List.foldl_append]

end Sys2Proof.Machine
end

