-- ==== Sys2Proof/Laws/State.lean ====
section
/-! SUPPORT. One lemma per field of the state and update, so that no proof unfolds a record update. -/

namespace Sys2Proof.Machine

section
variable (s : State) (r : Response) (k : ErrorKind) (es : List Event) (c : Nat) (x : Context) (q : Request)

@[simp] theorem State.respond_ctx : (s.respond r).ctx = s.ctx := rfl
@[simp] theorem State.respond_requests : (s.respond r).requests = s.requests := rfl
@[simp] theorem State.respond_responses : (s.respond r).responses = s.responses ++ [r] := rfl
@[simp] theorem State.respond_events : (s.respond r).events = s.events := rfl

@[simp] theorem State.respondError_ctx : (s.respondError k).ctx = s.ctx := rfl
@[simp] theorem State.respondError_requests : (s.respondError k).requests = s.requests := rfl
@[simp] theorem State.respondError_responses :
    (s.respondError k).responses = s.responses ++ [.error k] := rfl
@[simp] theorem State.respondError_events : (s.respondError k).events = s.events := rfl

@[simp] theorem State.emit_ctx : (s.emit es).ctx = s.ctx := rfl
@[simp] theorem State.emit_requests : (s.emit es).requests = s.requests := rfl
@[simp] theorem State.emit_responses : (s.emit es).responses = s.responses := rfl
@[simp] theorem State.emit_events : (s.emit es).events = s.events ++ es := rfl

@[simp] theorem State.setContext_ctx : (s.setContext c x).ctx = s.ctx.set c x := rfl
@[simp] theorem State.setContext_requests : (s.setContext c x).requests = s.requests := rfl
@[simp] theorem State.setContext_responses : (s.setContext c x).responses = s.responses := rfl
@[simp] theorem State.setContext_events : (s.setContext c x).events = s.events := rfl

@[simp] theorem State.issue_ctx : (s.issue q).ctx = s.ctx := rfl
@[simp] theorem State.issue_requests : (s.issue q).requests = s.requests ++ [q] := rfl
@[simp] theorem State.issue_responses : (s.issue q).responses = s.responses := rfl
@[simp] theorem State.issue_events : (s.issue q).events = s.events := rfl

theorem State.context?_eq : s.context? c = s.ctx[c]? := rfl

/-- R73: a channel is legal exactly when it is below NUM_CHANNELS. -/
theorem State.context?_eq_none : s.context? c = none ↔ s.numChannels ≤ c := by
  simp [State.context?, State.numChannels]

/-- Reading back a legal channel's context after writing it. -/
theorem State.context?_setContext (h : s.context? c = some x) (y : Context) :
    (s.setContext c y).context? c = some y := by
  have hc : c < s.ctx.length := by
    have := List.getElem?_eq_some_iff.mp (h : s.ctx[c]? = some x)
    exact this.1
  simp [State.context?, State.setContext, hc]

/-- R28: writing channel `c` leaves every other channel's context. -/
theorem State.context?_setContext_ne {d : Nat} (h : d ≠ c) (y : Context) :
    (s.setContext c y).context? d = s.context? d := by
  simp [State.context?, State.setContext, List.getElem?_set_ne (Ne.symm h)]

/-- The number of channels is fixed (R243). -/
theorem State.numChannels_setContext (y : Context) : (s.setContext c y).numChannels = s.numChannels := by
  simp [State.numChannels, State.setContext]

end

/-- What taking a request can do: there was one, it was the oldest, and only the queue changes. -/
theorem takeRequest_eq_some {s t : State} {r : Request} :
    takeRequest s = some (r, t) ↔ ∃ rest, s.requests = r :: rest ∧ t = { s with requests := rest } := by
  unfold takeRequest
  split
  · simp_all
  · simp_all only [Option.some.injEq, Prod.mk.injEq, List.cons.injEq]
    constructor
    · rintro ⟨rfl, rfl⟩; exact ⟨_, ⟨rfl, rfl⟩, rfl⟩
    · rintro ⟨_, ⟨rfl, rfl⟩, rfl⟩; exact ⟨rfl, rfl⟩

theorem takeRequest_eq_none {s : State} : takeRequest s = none ↔ s.requests = [] := by
  unfold takeRequest
  split <;> simp_all

end Sys2Proof.Machine
end

