-- ==== Sys2Proof/Laws/Decoder.lean ====
section
/-! SUPPORT. What the decoder's operations can do: R33 state by state, each arm once, and FRAME_DECODE_BYTE and
FRAME_DECODER_RESET as case lists. -/

namespace Sys2Proof.Machine

section
variable {s t : State} {x : Context} {b : Byte} {c : Nat}

/-- R33 in SEARCHING. -/
theorem Context.wf_searching (h : x.state = .searching) : x.wf = true ↔ x.fill.toNat ≤ 64 := by
  have := x.crcIdx.isLt
  simp [Context.wf, h]
  omega

/-- R33 in READ_LEN. -/
theorem Context.wf_readLen (h : x.state = .readLen) :
    x.wf = true ↔ x.fill.toNat ≤ 64 ∧ x.syncLatch = 0xAA := by
  have := x.crcIdx.isLt
  simp [Context.wf, h]
  omega

/-- R33 in READ_PAYLOAD. -/
theorem Context.wf_readPayload (h : x.state = .readPayload) :
    x.wf = true ↔ x.syncLatch = 0xAA ∧ 1 ≤ x.expLen.toNat ∧ x.expLen.toNat ≤ 64 ∧ x.fill.toNat < x.expLen.toNat := by
  have := x.crcIdx.isLt
  simp only [Context.wf, h, Bool.and_eq_true, decide_eq_true_eq, beq_iff_eq]
  constructor
  · rintro ⟨-, ⟨⟨hs, h1⟩, h2⟩, h3⟩
    exact ⟨hs, h1, h2, h3⟩
  · rintro ⟨hs, h1, h2, h3⟩
    exact ⟨⟨by omega, by omega⟩, ⟨⟨hs, h1⟩, h2⟩, h3⟩

/-- R33 in VERIFY. -/
theorem Context.wf_verify (h : x.state = .verify) :
    x.wf = true ↔ x.syncLatch = 0xAA ∧ 1 ≤ x.expLen.toNat ∧ x.expLen.toNat ≤ 64 ∧ x.fill.toNat = x.expLen.toNat ∧
      (x.crcIdx = 0 → x.rxCrc = 0) := by
  have := x.crcIdx.isLt
  simp only [Context.wf, h, Bool.and_eq_true, Bool.or_eq_true, decide_eq_true_eq, beq_iff_eq, bne_iff_ne, ne_eq,
    imp_iff_not_or]
  constructor
  · rintro ⟨-, ⟨⟨⟨hs, h1⟩, h2⟩, h3⟩, h4⟩
    exact ⟨hs, h1, h2, h3, h4⟩
  · rintro ⟨hs, h1, h2, h3, h4⟩
    exact ⟨⟨by omega, by omega⟩, ⟨⟨⟨hs, h1⟩, h2⟩, h3⟩, h4⟩

theorem Context.wf_reset : Context.reset.wf = true := by decide

/-- R140's case, state by state. -/
theorem decoderArm_searching (h : x.state = .searching) : decoderArm x b = searchingArm x b := by
  simp [decoderArm, h]

theorem decoderArm_readLen (h : x.state = .readLen) : decoderArm x b = readLenArm x b := by
  simp [decoderArm, h]

theorem decoderArm_readPayload (h : x.state = .readPayload) : decoderArm x b = readPayloadArm x b := by
  simp [decoderArm, h]

theorem decoderArm_verifyHigh (h : x.state = .verify) (hi : x.crcIdx = 0) : decoderArm x b = verifyHighArm x b := by
  simp [decoderArm, h, hi]

theorem decoderArm_verifyLow (h : x.state = .verify) (hi : x.crcIdx = 1) : decoderArm x b = verifyLowArm x b := by
  simp [decoderArm, h, hi]

/-- R141 -/
theorem searchingArm_sync (x : Context) :
    searchingArm x 0xAA =
      ⟨{ x with syncLatch := 0xAA, buf := Vector.replicate 64 0x00, state := .readLen }, .incomplete, []⟩ := rfl

/-- R141: "Any other byte is silently discarded". -/
theorem searchingArm_other (h : b ≠ 0xAA) : searchingArm x b = ⟨x, .incomplete, []⟩ := if_neg h

/-- R142, a legal length. -/
theorem readLenArm_legal (h1 : 1 ≤ b.toNat) (h2 : b.toNat ≤ 64) :
    readLenArm x b = ⟨{ x with expLen := b, fill := 0, state := .readPayload }, .incomplete, []⟩ := if_pos ⟨h1, h2⟩

/-- R142, a malformed length. -/
theorem readLenArm_malformed (h : b.toNat < 1 ∨ 64 < b.toNat) :
    readLenArm x b = ⟨{ x with state := .searching }, .incomplete, []⟩ :=
  if_neg (by simp only [Params.minPayload, Params.maxPayload]; omega)

/-- The fill index counts up without wrapping (R33 bounds it). -/
theorem Context.fill_succ (h : x.fill.toNat < 64) : (x.fill + 1).toNat = x.fill.toNat + 1 := by
  simp [BitVec.toNat_add]
  omega

/-- R143, a payload byte that is not the last. -/
theorem readPayloadArm_more (h : x.fill.toNat < 64) (hm : x.fill.toNat + 1 ≠ x.expLen.toNat) :
    readPayloadArm x b =
      ⟨{ x with buf := x.buf.setIfInBounds x.fill.toNat b, fill := x.fill + 1 }, .incomplete, []⟩ := by
  simp only [readPayloadArm, Context.fill_succ h, if_neg hm, memWrite]

/-- R143, the last payload byte. -/
theorem readPayloadArm_last (h : x.fill.toNat < 64) (hm : x.fill.toNat + 1 = x.expLen.toNat) :
    readPayloadArm x b =
      ⟨{ x with buf := x.buf.setIfInBounds x.fill.toNat b, fill := x.fill + 1, crcIdx := 0, rxCrc := 0,
                state := .verify }, .incomplete, []⟩ := by
  simp only [readPayloadArm, Context.fill_succ h, if_pos hm, memWrite]

/-- R145 on a match. -/
theorem verifyLowArm_match
    (h : crc16 (validationRange x.syncLatch x.expLen x.payload) = x.rxCrc ||| zext16 b) :
    verifyLowArm x b =
      ⟨{ x with rxCrc := x.rxCrc ||| zext16 b, state := .searching }, .frameAccepted x.payload,
        [.deliver x.payload x.expLen.toNat]⟩ := if_pos h

/-- R145 on a mismatch. -/
theorem verifyLowArm_mismatch
    (h : crc16 (validationRange x.syncLatch x.expLen x.payload) ≠ x.rxCrc ||| zext16 b) :
    verifyLowArm x b =
      ⟨{ x with rxCrc := x.rxCrc ||| zext16 b, state := .searching }, .frameRejected, []⟩ := if_neg h

/-- A payload has the expected length (R30). -/
theorem Context.payload_length (h : x.expLen.toNat ≤ 64) : x.payload.length = x.expLen.toNat := by
  simp [Context.payload, h]

/-- Every arm keeps R33 (the argument R33 itself gives). -/
theorem decoderArm_wf (h : x.wf = true) (b : Byte) : (decoderArm x b).ctx.wf = true := by
  unfold decoderArm
  split
  next hs =>
    have hw := (Context.wf_searching hs).mp h
    by_cases hb : b = 0xAA
    · subst hb
      rw [searchingArm_sync]
      exact (Context.wf_readLen rfl).mpr ⟨hw, rfl⟩
    · rw [searchingArm_other hb]; exact h
  next hs =>
    have hw := (Context.wf_readLen hs).mp h
    by_cases hb : 1 ≤ b.toNat ∧ b.toNat ≤ 64
    · rw [readLenArm_legal hb.1 hb.2]
      exact (Context.wf_readPayload rfl).mpr ⟨hw.2, hb.1, hb.2, hb.1⟩
    · rw [readLenArm_malformed (by omega)]
      exact (Context.wf_searching rfl).mpr hw.1
  next hs =>
    have hw := (Context.wf_readPayload hs).mp h
    have hf : x.fill.toNat < 64 := by omega
    by_cases hm : x.fill.toNat + 1 = x.expLen.toNat
    · rw [readPayloadArm_last hf hm]
      exact (Context.wf_verify rfl).mpr ⟨hw.1, hw.2.1, hw.2.2.1, (Context.fill_succ hf).trans hm, fun _ => rfl⟩
    · rw [readPayloadArm_more hf hm]
      refine (Context.wf_readPayload (by exact hs)).mpr ⟨hw.1, hw.2.1, hw.2.2.1, ?_⟩
      show (x.fill + 1).toNat < x.expLen.toNat
      rw [Context.fill_succ hf]
      omega
  next hs =>
    have hw := (Context.wf_verify hs).mp h
    split
    next =>
      exact (Context.wf_verify (x := (verifyHighArm x b).ctx) hs).mpr
        ⟨hw.1, hw.2.1, hw.2.2.1, hw.2.2.2.1, fun h0 => absurd (show (1 : BitVec 1) = 0 from h0) (by decide)⟩
    next =>
      have : (verifyLowArm x b).ctx.state = .searching ∧ (verifyLowArm x b).ctx.fill = x.fill := by
        unfold verifyLowArm
        dsimp only
        split <;> exact ⟨rfl, rfl⟩
      rw [Context.wf_searching this.1, this.2]
      omega

/-- What FRAME_DECODE_BYTE can do when it gives a next state. -/
theorem execFrameDecodeByte_next (h : execFrameDecodeByte c b s = .next t) :
    (s.context? c = none ∧ t = s.respondError .invalidArgument) ∨
    ∃ x, s.context? c = some x ∧ x.wf = true ∧ t = applyArm s c (decoderArm x b) := by
  unfold execFrameDecodeByte at h
  split at h
  next hc => exact .inl ⟨hc, by simpa using h.symm⟩
  next x hc =>
    split at h
    next hw => exact .inr ⟨x, hc, hw, by simpa using h.symm⟩
    next => cases h

/-- FRAME_DECODE_BYTE on a context that keeps R33. -/
theorem execFrameDecodeByte_of_wf (hc : s.context? c = some x) (hw : x.wf = true) :
    execFrameDecodeByte c b s = .next (applyArm s c (decoderArm x b)) := by
  simp [execFrameDecodeByte, hc, hw]

/-- What FRAME_DECODER_RESET does: it always gives a next state. -/
theorem execFrameDecoderReset_cases (c : Nat) (s : State) :
    (s.context? c = none ∧ execFrameDecoderReset c s = .next (s.respondError .invalidArgument)) ∨
    ∃ x, s.context? c = some x ∧
      execFrameDecoderReset c s = .next ((s.setContext c Context.reset).respond .ok) := by
  unfold execFrameDecoderReset
  cases h : s.context? c with
  | none => exact .inl ⟨rfl, rfl⟩
  | some x => exact .inr ⟨x, rfl, rfl⟩

end

@[simp] theorem applyArm_ctx (s : State) (c : Nat) (a : ArmResult) : (applyArm s c a).ctx = s.ctx.set c a.ctx := rfl
@[simp] theorem applyArm_requests (s : State) (c : Nat) (a : ArmResult) :
    (applyArm s c a).requests = s.requests := rfl
@[simp] theorem applyArm_responses (s : State) (c : Nat) (a : ArmResult) :
    (applyArm s c a).responses = s.responses ++ [a.response] := rfl
@[simp] theorem applyArm_events (s : State) (c : Nat) (a : ArmResult) :
    (applyArm s c a).events = s.events ++ a.events := rfl

end Sys2Proof.Machine
end

