-- ==== Sys2Proof/Laws/Step.lean ====
section
/-! SUPPORT. What a step can do, and how FEED runs byte by byte. -/

namespace Sys2Proof.Machine

section
variable {s t : State} {r : Request} {rest : List Request}

/-- A step with a request pending, by what the decoder finds in it. -/
theorem step_of_requests (h : s.requests = r :: rest) :
    step s = match decode r with
      | .op i => exec i { s with requests := rest }
      | .reserved _ => .next (illegalOperation { s with requests := rest })
      | .badRecord cmd => .refused (.operandFormat cmd) := by
  have e : takeRequest s = some (r, { s with requests := rest }) := by
    unfold takeRequest
    split <;> simp_all
  unfold step
  split
  · simp_all
  · rename_i h0
    rw [e] at h0
    cases h0
    cases decode r <;> rfl

/-- A step with nothing pending. -/
theorem step_of_no_request (h : s.requests = []) : step s = .next s := by
  simp only [step, takeRequest, h, idle]

/-- What a step that gives a next state did: it idled, ran an operation, or turned a reserved byte away. -/
theorem step_next (h : step s = .next t) :
    (s.requests = [] ∧ t = s) ∨
    ∃ r rest, s.requests = r :: rest ∧
      ((∃ i, decode r = .op i ∧ exec i { s with requests := rest } = .next t) ∨
       (∃ cmd, decode r = .reserved cmd ∧ t = illegalOperation { s with requests := rest })) := by
  cases hr : s.requests with
  | nil =>
    rw [step_of_no_request hr] at h
    exact .inl ⟨rfl, by simpa using h.symm⟩
  | cons r rest =>
    rw [step_of_requests hr] at h
    refine .inr ⟨r, rest, rfl, ?_⟩
    cases hd : decode r with
    | op i => rw [hd] at h; exact .inl ⟨i, rfl, h⟩
    | reserved cmd => rw [hd] at h; exact .inr ⟨cmd, rfl, by simpa using h.symm⟩
    | badRecord cmd => rw [hd] at h; cases h

/-- `Host.Core.run` of no step. -/
theorem run_zero (s : State) : Host.Core.run Sys2Proof.core 0 s = .next s := rfl

/-- `Host.Core.run` of one step and then the rest. -/
theorem run_succ (k : Nat) (s : State) :
    Host.Core.run Sys2Proof.core (k + 1) s = match step s with
      | .next t => Host.Core.run Sys2Proof.core k t
      | .fault f => .fault f
      | .refused q => .refused q := by
  refine (Host.Core.run.eq_2 Sys2Proof.core s k).trans ?_
  cases h : step s <;> simp [show Sys2Proof.core.step s = step s from rfl, h]

/-- FEED of nothing takes no step. -/
theorem feed_nil (c : Nat) (s : State) : feed c [] s = .next s := rfl

/-- FEED of a byte and more: the byte's FRAME_DECODE_BYTE, then the rest (R92). -/
theorem feed_cons {c : Nat} {b : Byte} (bs : ByteSeq) (h : execFrameDecodeByte c b s = .next t) :
    feed c (b :: bs) s = feed c bs t := by
  have hq : execFrameDecodeByte c b { s with requests := feedRequests c bs ++ s.requests } =
      .next { t with requests := feedRequests c bs ++ t.requests } := by
    unfold execFrameDecodeByte at h ⊢
    split at h
    next hc =>
      have : t = s.respondError .invalidArgument := by simpa using h.symm
      subst this
      simp only [show State.context? { s with requests := feedRequests c bs ++ s.requests } c = none from hc]
      rfl
    next x hc =>
      split at h
      next hw =>
        have : t = applyArm s c (decoderArm x b) := by simpa using h.symm
        subst this
        simp only [show State.context? { s with requests := feedRequests c bs ++ s.requests } c = some x from hc, hw]
        rfl
      next => cases h
  show Host.Core.run Sys2Proof.core (bs.length + 1) _ = _
  rw [run_succ, step_of_requests (r := encode (.frameDecodeByte c b)) (rest := feedRequests c bs ++ s.requests) rfl]
  show (match execFrameDecodeByte c b { s with requests := feedRequests c bs ++ s.requests } with
      | .next t => Host.Core.run Sys2Proof.core bs.length t
      | .fault f => .fault f
      | .refused q => .refused q) = _
  rw [hq]
  rfl

/-- FEED of a byte that its channel's context can take, then the rest. -/
theorem feed_cons_of_wf {c : Nat} {b : Byte} {x : Context} (bs : ByteSeq) (hc : s.context? c = some x)
    (hw : x.wf = true) : feed c (b :: bs) s = feed c bs (applyArm s c (decoderArm x b)) :=
  feed_cons bs (execFrameDecodeByte_of_wf hc hw)

end

end Sys2Proof.Machine
end

