-- ==== Sys2Proof/Laws/Feed.lean ====
section
/-! SUPPORT. FEED (`30_encoding.md` R92) as a fold over one context: the context, the responses and the events of a
byte sequence. A statement about a byte stream is about these three, by `feed_eq`. -/

namespace Sys2Proof.Machine

/-- The context after the bytes. -/
def armsCtx (x : Context) (bs : ByteSeq) : Context := bs.foldl (fun y b => (decoderArm y b).ctx) x

/-- The responses to the bytes, in order. -/
def armsResponses (x : Context) : ByteSeq → List Response
  | [] => []
  | b :: bs => (decoderArm x b).response :: armsResponses (decoderArm x b).ctx bs

/-- The events the bytes emit, in order. -/
def armsEvents (x : Context) : ByteSeq → List Event
  | [] => []
  | b :: bs => (decoderArm x b).events ++ armsEvents (decoderArm x b).ctx bs

theorem armsCtx_append (x : Context) (as bs : ByteSeq) : armsCtx x (as ++ bs) = armsCtx (armsCtx x as) bs := by
  simp [armsCtx]

theorem armsResponses_append (x : Context) (as bs : ByteSeq) :
    armsResponses x (as ++ bs) = armsResponses x as ++ armsResponses (armsCtx x as) bs := by
  induction as generalizing x with
  | nil => rfl
  | cons b as ih => simp [armsResponses, armsCtx, ih]

theorem armsEvents_append (x : Context) (as bs : ByteSeq) :
    armsEvents x (as ++ bs) = armsEvents x as ++ armsEvents (armsCtx x as) bs := by
  induction as generalizing x with
  | nil => rfl
  | cons b as ih => simp [armsEvents, armsCtx, ih]

/-- Every byte sequence keeps R33. -/
theorem armsCtx_wf {x : Context} (h : x.wf = true) (bs : ByteSeq) : (armsCtx x bs).wf = true := by
  induction bs generalizing x with
  | nil => exact h
  | cons b bs ih => exact ih (decoderArm_wf h b)

/-- FEED on a channel whose context keeps R33: one response a byte, and no other part of the state changes. -/
theorem feed_eq {s : State} {c : Nat} {x : Context} (hc : s.ctx[c]? = some x) (hw : x.wf = true) (bs : ByteSeq) :
    feed c bs s = .next { s with
      ctx := s.ctx.set c (armsCtx x bs)
      responses := s.responses ++ armsResponses x bs
      events := s.events ++ armsEvents x bs } := by
  induction bs generalizing s x with
  | nil =>
    have : s.ctx.set c x = s.ctx := by
      apply List.ext_getElem?
      intro d
      by_cases hd : c = d
      · subst hd
        rw [List.getElem?_set_self (List.getElem?_eq_some_iff.mp hc).1, hc]
      · rw [List.getElem?_set_ne hd]
    simp [feed_nil, armsCtx, armsResponses, armsEvents, this]
  | cons b bs ih =>
    have hlt := (List.getElem?_eq_some_iff.mp hc).1
    rw [feed_cons_of_wf bs hc hw, ih (x := (decoderArm x b).ctx) (by simp [hlt]) (decoderArm_wf hw b)]
    simp [armsCtx, armsResponses, armsEvents, applyArm, State.respond, State.emit, State.setContext]

end Sys2Proof.Machine
end

