-- ==== Sys2Proof/Laws/Operands.lean ====
section
/-! SUPPORT. What the readers of operand sequences and the big-endian helpers give. -/

namespace Sys2Proof.Machine

/-- R14: within its length a sequence is read at the index given. -/
theorem byteAt_of_lt {s : ByteSeq} {i : Nat} (h : i < s.length) : byteAt s i = s[i] := by
  simp [byteAt, h]

/-- R16: a read within the length gives as many bytes as it asks for. -/
theorem memRead_length {s : ByteSeq} {off n : Nat} (h : off + n ≤ s.length) : (memRead s off n).length = n := by
  simp [memRead]; omega

/-- R16: a read from offset 0 is a prefix. -/
theorem memRead_zero (s : ByteSeq) (n : Nat) : memRead s 0 n = s.take n := by simp [memRead]

/-- R16: byte `i` of a read is byte `off + i` of the sequence. -/
theorem byteAt_memRead {s : ByteSeq} {off n i : Nat} (h : i < n) :
    byteAt (memRead s off n) i = byteAt s (off + i) := by
  simp [byteAt, memRead, List.getD_eq_getElem?_getD, h]

@[simp] theorem toBE16_length (v : U16) : (toBE16 v).length = 2 := rfl

@[simp] theorem toBE64_length (v : U64) : (toBE64 v).length = 8 := rfl

/-- R15, R55: the first byte is bits 15:8, the second bits 7:0. -/
theorem be16_toNat (b0 b1 : Byte) : (be16 b0 b1).toNat = b0.toNat * 256 + b1.toNat := by
  have h0 := b0.isLt
  have h1 := b1.isLt
  have : (be16 b0 b1).toNat = (b0.toNat <<< 8) ||| b1.toNat := by
    rw [be16, BitVec.toNat_or, BitVec.toNat_shiftLeft, zext16, zext16, BitVec.toNat_setWidth, BitVec.toNat_setWidth,
      Nat.mod_eq_of_lt (by omega : b0.toNat < 2 ^ 16), Nat.mod_eq_of_lt (by omega : b1.toNat < 2 ^ 16),
      Nat.mod_eq_of_lt (by rw [Nat.shiftLeft_eq]; omega)]
  rw [this, ← Nat.shiftLeft_add_eq_or_of_lt h1, Nat.shiftLeft_eq]

/-- R15: the sum of R15 is the big-endian value of the eight bytes. -/
theorem be64_toNat (b0 b1 b2 b3 b4 b5 b6 b7 : Byte) :
    (be64 [b0, b1, b2, b3, b4, b5, b6, b7]).toNat =
      b0.toNat * 2 ^ 56 + b1.toNat * 2 ^ 48 + b2.toNat * 2 ^ 40 + b3.toNat * 2 ^ 32 +
      b4.toNat * 2 ^ 24 + b5.toNat * 2 ^ 16 + b6.toNat * 2 ^ 8 + b7.toNat := by
  simp [be64, byteAt, List.range_succ, zext64, BitVec.toNat_add, BitVec.toNat_shiftLeft, Nat.shiftLeft_eq]
  omega

end Sys2Proof.Machine
end

