-- ==== Sys2Proof/Laws/PerInstr.lean ====
section
/-! SUPPORT. Per operation: the request that `encode` builds is of its command byte's format, and decodes to the
operation itself (`30_encoding.md` R71, R72). -/

namespace Sys2Proof.Laws

/-- The request of `i` is one that can be sent, and the decoder reads `i` from it. -/
def EncodesToItself.Statement (i : Instr) : Prop :=
  (encode i).wf = true ∧ decode (encode i) = .op i

theorem EncodesToItself.crc16 (data : ByteSeq) : EncodesToItself.Statement (.crc16 data) := ⟨rfl, rfl⟩

theorem EncodesToItself.frameEncode (payload : Option ByteSeq) (length : Nat) :
    EncodesToItself.Statement (.frameEncode payload length) := ⟨rfl, rfl⟩

theorem EncodesToItself.frameDecodeByte (c : Nat) (b : Byte) :
    EncodesToItself.Statement (.frameDecodeByte c b) := ⟨rfl, rfl⟩

theorem EncodesToItself.frameDecoderReset (c : Nat) :
    EncodesToItself.Statement (.frameDecoderReset c) := ⟨rfl, rfl⟩

theorem EncodesToItself.spWrap (sourceId : U16) (userData : Option ByteSeq) (userDataLen : Nat) (nowMs : U64) :
    EncodesToItself.Statement (.spWrap sourceId userData userDataLen nowMs) := ⟨rfl, rfl⟩

theorem EncodesToItself.spGetSourceId (buffer : Option ByteSeq) :
    EncodesToItself.Statement (.spGetSourceId buffer) := ⟨rfl, rfl⟩

theorem EncodesToItself.spHasSecondaryHeader (buffer : Option ByteSeq) :
    EncodesToItself.Statement (.spHasSecondaryHeader buffer) := ⟨rfl, rfl⟩

theorem EncodesToItself.spGetTimestamp (buffer : Option ByteSeq) :
    EncodesToItself.Statement (.spGetTimestamp buffer) := ⟨rfl, rfl⟩

theorem EncodesToItself.spUnpackHeader (buffer : Option ByteSeq) :
    EncodesToItself.Statement (.spUnpackHeader buffer) := ⟨rfl, rfl⟩

end Sys2Proof.Laws
end

