-- ==== Sys2Proof/Laws/SpacePacket.lean ====
section
/-! SUPPORT. What each codec operation answers: the encoder's and SP_WRAP's checks, the readers' sentinels, and the
fields of a packet SP_WRAP builds. -/

namespace Sys2Proof.Machine

section
variable {data w : ByteSeq} {n : Nat} {sourceId : U16} {nowMs : U64}

/-- R120, R121: with legal arguments the encoder builds the frame. -/
theorem frameEncode_some (h1 : 1 ≤ n) (h2 : n ≤ 64) (h3 : n ≤ data.length) :
    frameEncode (some data) n =
      .encoded (frameOf (BitVec.ofNat 8 n) (data.take n)) (frameBytes (frameOf (BitVec.ofNat 8 n) (data.take n))) := by
  unfold frameEncode
  dsimp only
  rw [if_neg (Nat.not_lt.mpr h2), if_neg (Nat.not_lt.mpr h1), if_neg (Nat.not_lt.mpr h3), memRead_zero]

/-- R181, R184: with legal arguments SP_WRAP builds the packet. -/
theorem spWrap_some (h1 : n ≤ data.length) (h2 : n ≤ 65528) :
    spWrap sourceId (some data) n nowMs = .packet (packetBytes sourceId (data.take n) nowMs) := by
  unfold spWrap
  dsimp only
  rw [if_neg (Nat.not_lt.mpr h1), if_neg (Nat.not_lt.mpr h2), memRead_zero]

/-- R82: a packet is 14 bytes and the user data. -/
theorem packetBytes_length : (packetBytes sourceId data nowMs).length = 14 + data.length := by
  simp [packetBytes]
  omega

/-- R82: the time stamp stands at bytes 6 to 13. -/
theorem memRead_packetBytes_time : memRead (packetBytes sourceId data nowMs) 6 8 = toBE64 nowMs := by
  simp [memRead, packetBytes, toBE16, toBE64]

/-- R82: the user data stand from byte 14 on. -/
theorem packetBytes_drop : (packetBytes sourceId data nowMs).drop 14 = data := by
  simp [packetBytes, toBE16, toBE64]

/-- R188: the sentinel of a short buffer. -/
theorem spGetSourceId_short (h : w.length < 2) : spGetSourceId (some w) = 0 := if_pos h

/-- R187 -/
theorem spGetSourceId_some (h : 2 ≤ w.length) : spGetSourceId (some w) = (idApid (fieldAt w 0)).setWidth 16 :=
  if_neg (Nat.not_lt.mpr h)

/-- R191: the sentinel of a short buffer. -/
theorem spHasSecondaryHeader_short (h : w.length < 2) : spHasSecondaryHeader (some w) = false := if_pos h

/-- R190 -/
theorem spHasSecondaryHeader_some (h : 2 ≤ w.length) :
    spHasSecondaryHeader (some w) = (idSec (fieldAt w 0) == 1) := if_neg (Nat.not_lt.mpr h)

/-- R193: the sentinel of a short buffer. -/
theorem spGetTimestamp_short (h : w.length < 14) : spGetTimestamp (some w) = 0 := if_pos h

/-- R193: the sentinel of a packet without a secondary header. -/
theorem spGetTimestamp_flag (h : 14 ≤ w.length) (hs : idSec (fieldAt w 0) = 0) : spGetTimestamp (some w) = 0 :=
  (if_neg (Nat.not_lt.mpr h)).trans (if_pos hs)

/-- R192 -/
theorem spGetTimestamp_some (h : 14 ≤ w.length) (hs : idSec (fieldAt w 0) ≠ 0) :
    spGetTimestamp (some w) = timeField w := (if_neg (Nat.not_lt.mpr h)).trans (if_neg hs)

/-- R196: a buffer shorter than the primary header. -/
theorem spUnpackHeader_short (h : w.length < 6) : spUnpackHeader (some w) = .undersized := if_pos h

/-- R195 -/
theorem spUnpackHeader_some (h : 6 ≤ w.length) : spUnpackHeader (some w) = .header (unpackedHeader w) :=
  if_neg (Nat.not_lt.mpr h)

end

end Sys2Proof.Machine
end

