-- ==== Sys2Proof/Tests/Slice0.lean ====
section
/-! SUPPORT. Tests: the request checks, the decoding of every command byte, one-step vectors of
`95_test_vectors.md` (cited by their ids), and for every obligation with hypotheses a witness that meets them. -/

namespace Sys2Proof.Tests

open Sys2Proof Sys2Proof.Machine

-- Each proof below is checked before the next is read: many at once would need more memory than the check allows.
set_option Elab.async false

/-- The machine after reset with channel 0 in the context `x`. -/
def hold (x : Context) : State := { State.reset with ctx := [x, Context.reset] }

/-- The machine after reset with one request pending. -/
def pending (cmd : Byte) (ops : OperandRecord) : State := State.reset.issue ⟨cmd, ops⟩

/-- A buffer that starts with `bs`, the rest 0x00. -/
def bufOf (bs : ByteSeq) : Vector Byte 64 := memWrite (Vector.replicate 64 0x00) 0 bs

/-- The contexts of V-DEC-1's trace, after its bytes 1, 3, 4, 5 and 6. -/
def atLen : Context := { Context.reset with state := .readLen, syncLatch := 0xAA }
def atByte1 : Context :=
  { atLen with state := .readPayload, expLen := 3, fill := 1, buf := bufOf [0x01] }
def atByte2 : Context :=
  { atLen with state := .readPayload, expLen := 3, fill := 2, buf := bufOf [0x01, 0x02] }
def atHigh : Context := { atLen with state := .verify, expLen := 3, fill := 3, buf := bufOf [0x01, 0x02, 0x03] }
def atLow : Context := { atHigh with crcIdx := 1, rxCrc := 0x8700 }

/-- READ_PAYLOAD with the fill index at the expected length: R35's example of a context that breaks R33. -/
def broken : Context := { atByte2 with fill := 3 }

/-- The packet of V-SP-1. -/
def p1 : ByteSeq :=
  [0x18, 0x10, 0xC0, 0x00, 0x00, 0x0B, 0x00, 0x00, 0x00, 0x00, 0x00, 0x00, 0x00, 0x64, 0xDE, 0xAD, 0xBE, 0xEF]

/-- The one response of a step, where it answers a next state. -/
def answer : Host.Outcome State Fault Refusal → Option Response
  | .next t => t.responses.head?
  | .fault _ => none
  | .refused _ => none

/-- The state after a step that answers a next state. -/
def after : Host.Outcome State Fault Refusal → Option State
  | .next t => some t
  | .fault _ => none
  | .refused _ => none

/-- Whether two outcomes are equal (`Host.Outcome` itself has no decidable equality). -/
def same : Host.Outcome State Fault Refusal → Host.Outcome State Fault Refusal → Bool
  | .next s, .next t => s == t
  | .fault f, .fault g => f == g
  | .refused q, .refused r => q == r
  | _, _ => false

theorem eq_of_same {o p : Host.Outcome State Fault Refusal} (h : same o p = true) : o = p := by
  cases o <;> cases p <;> simp_all [same]

/-! ### Requests that are ill formed (R72) -/

theorem test_seq_refuses_other_record : OperandRecord.inFormat .fSeq (.enc none 0) = false := by decide
theorem test_enc_refuses_other_record : OperandRecord.inFormat .fEnc (.seq []) = false := by decide
theorem test_dec_refuses_other_record : OperandRecord.inFormat .fDec (.ch 0) = false := by decide
theorem test_ch_refuses_other_record : OperandRecord.inFormat .fCh (.dec 0 0) = false := by decide
theorem test_wrap_refuses_other_record : OperandRecord.inFormat .fWrap (.enc none 0) = false := by decide
theorem test_buf_refuses_other_record : OperandRecord.inFormat .fBuf (.seq []) = false := by decide
theorem test_no_format_takes_an_absent_record :
    ∀ f ∈ [Format.fSeq, .fEnc, .fDec, .fCh, .fWrap, .fBuf], OperandRecord.inFormat f .absent = false := by decide
theorem test_request_refuses_other_record : Request.wf ⟨0x03, .ch 0⟩ = false := by decide
theorem test_reserved_request_takes_any_record : Request.wf ⟨0x0A, .ch 0⟩ = true := by decide

/-! ### Decoding (R71; the words are the "bits 7..0" column of its table) -/

theorem test_decode_crc16 : decode ⟨0b00000001, .seq [0x31]⟩ = .op (.crc16 [0x31]) := by decide
theorem test_decode_frame_encode :
    decode ⟨0b00000010, .enc (some [0x01, 0x02]) 2⟩ = .op (.frameEncode (some [0x01, 0x02]) 2) := by decide
theorem test_decode_frame_decode_byte : decode ⟨0b00000011, .dec 1 0x13⟩ = .op (.frameDecodeByte 1 0x13) := by decide
theorem test_decode_frame_decoder_reset : decode ⟨0b00000100, .ch 2⟩ = .op (.frameDecoderReset 2) := by decide
theorem test_decode_sp_wrap :
    decode ⟨0b00000101, .wrap 0x010 (some [0xDE]) 1 100⟩ = .op (.spWrap 0x010 (some [0xDE]) 1 100) := by decide
theorem test_decode_sp_get_source_id : decode ⟨0b00000110, .buf none⟩ = .op (.spGetSourceId none) := by decide
theorem test_decode_sp_has_secondary_header :
    decode ⟨0b00000111, .buf (some [0x18])⟩ = .op (.spHasSecondaryHeader (some [0x18])) := by decide
theorem test_decode_sp_get_timestamp : decode ⟨0b00001000, .buf (some [])⟩ = .op (.spGetTimestamp (some [])) := by
  decide
theorem test_decode_sp_unpack_header : decode ⟨0b00001001, .buf none⟩ = .op (.spUnpackHeader none) := by decide

/-- V-REQ-1 to V-REQ-3 -/
theorem test_decode_reserved :
    decode ⟨0x00, .absent⟩ = .reserved 0x00 ∧ decode ⟨0x0A, .buf none⟩ = .reserved 0x0A ∧
      decode ⟨0xFF, .absent⟩ = .reserved 0xFF := by decide
/-- R72: such a request cannot be sent. -/
theorem test_decode_bad_record : decode ⟨0x03, .seq [0x13]⟩ = .badRecord 0x03 := by decide
/-- The opcode table's words, with every operand zero. -/
theorem test_decode_table_words :
    [0, 1, 2, 3, 4, 5, 6, 7, 8, 9, 10, 255].map (decodeTableWord 8) =
      [none, some (.crc16 []), some (.frameEncode none 0), some (.frameDecodeByte 0 0), some (.frameDecoderReset 0),
        some (.spWrap 0 none 0 0), some (.spGetSourceId none), some (.spHasSecondaryHeader none),
        some (.spGetTimestamp none), some (.spUnpackHeader none), none, none] := by decide
/-- The next step runs the word that was placed. -/
theorem test_step_runs_the_fetch_word :
    ∀ w ∈ [1, 2, 3, 4, 5, 6, 7, 8, 9],
      (decodeTableWord 8 w).map (fun i => after (exec i State.reset)) =
        some (after (step (State.reset.withFetchWord 8 w))) := by
  decide +kernel

/-! ### One-step vectors of `95_test_vectors.md` -/

/-- V-CRC-1 -/
theorem test_crc16_empty : answer (step (pending 0x01 (.seq []))) = some (.crc 0xFFFF) := by decide
/-- V-CRC-13: a whole frame, its CRC included -/
theorem test_crc16_whole_frame :
    answer (exec (.crc16 [0xAA, 0x03, 0x01, 0x02, 0x03, 0x87, 0x2B]) State.reset) = some (.crc 0x0000) := by
  decide +kernel
/-- V-ENC-10 -/
theorem test_frame_encode_ignores_the_extra_byte :
    answer (exec (.frameEncode (some [0x01, 0x02, 0x03, 0x04]) 3) State.reset) =
      some (.encoded ⟨0xAA, 3, [0x01, 0x02, 0x03], 0x872B⟩ [0xAA, 0x03, 0x01, 0x02, 0x03, 0x87, 0x2B]) := by
  decide +kernel
/-- V-ENC-17: the packet of V-SP-1 as a payload -/
theorem test_frame_encode_a_packet :
    answer (exec (.frameEncode (some p1) 18) State.reset) =
      some (.encoded ⟨0xAA, 18, p1, 0x09C2⟩ ([0xAA, 0x12] ++ p1 ++ [0x09, 0xC2])) := by decide +kernel
/-- V-DEC-1 byte 7: accepted and delivered; `crc_idx`, `exp_len`, `fill` and the buffer stay. -/
theorem test_frame_decode_byte_accepts :
    exec (.frameDecodeByte 0 0x2B) (hold atLow) = .next
      { hold { atLow with state := .searching, rxCrc := 0x872B } with
        responses := [.frameAccepted [0x01, 0x02, 0x03]], events := [.deliver [0x01, 0x02, 0x03] 3] } :=
  eq_of_same (by decide +kernel)
/-- V-DEC-7: rejected, nothing delivered. -/
theorem test_frame_decode_byte_rejects :
    exec (.frameDecodeByte 0 0x2C) (hold atLow) = .next
      { hold { atLow with state := .searching, rxCrc := 0x872C } with responses := [.frameRejected] } :=
  eq_of_same (by decide +kernel)
/-- V-RST-4: the frame in progress is dropped. -/
theorem test_frame_decoder_reset_mid_frame :
    exec (.frameDecoderReset 0) (hold atLow) = .next { State.reset with responses := [.ok] } := rfl
/-- V-RST-5 -/
theorem test_frame_decoder_reset_bad_channel :
    exec (.frameDecoderReset 2) State.reset = .next { State.reset with responses := [.error .invalidArgument] } := rfl
/-- V-SP-1 -/
theorem test_sp_wrap_packet :
    answer (exec (.spWrap 0x010 (some [0xDE, 0xAD, 0xBE, 0xEF]) 4 100) State.reset) = some (.packet p1) := by
  decide +kernel
/-- V-SP-3 -/
theorem test_sp_wrap_masks_the_source_id :
    answer (exec (.spWrap 0xFFFF (some []) 0 0x0123456789ABCDEF) State.reset) =
      some (.packet [0x1F, 0xFF, 0xC0, 0x00, 0x00, 0x07, 0x01, 0x23, 0x45, 0x67, 0x89, 0xAB, 0xCD, 0xEF]) := by
  decide +kernel
/-- V-SID-11 -/
theorem test_sp_get_source_id_masks :
    answer (exec (.spGetSourceId (some [0xF7, 0xFF])) State.reset) = some (.sourceId 0x7FF) := by decide
/-- V-SID-2 -/
theorem test_sp_get_source_id_short : answer (exec (.spGetSourceId (some [0x18])) State.reset) = some (.sourceId 0) := by
  decide
/-- V-SEC-10 -/
theorem test_sp_has_secondary_header_reads_one_bit :
    answer (exec (.spHasSecondaryHeader (some [0x08, 0x00])) State.reset) = some (.flag true) := by decide
/-- V-SEC-11 -/
theorem test_sp_has_secondary_header_clear :
    answer (exec (.spHasSecondaryHeader (some [0xF7, 0xFF])) State.reset) = some (.flag false) := by decide
/-- V-TS-7 -/
theorem test_sp_get_timestamp_fourteen_bytes :
    answer (exec (.spGetTimestamp (some (p1.take 14))) State.reset) = some (.timestamp 100) := by decide +kernel
/-- V-TS-4 -/
theorem test_sp_get_timestamp_thirteen_bytes :
    answer (exec (.spGetTimestamp (some (p1.take 13))) State.reset) = some (.timestamp 0) := by decide +kernel
/-- V-UNP-1 -/
theorem test_sp_unpack_header :
    answer (exec (.spUnpackHeader (some p1)) State.reset) =
      some (.header ⟨0, 1, 1, 0x010, 0xC000, 0x000B, some 100⟩) := by decide +kernel
/-- V-UNP-6: the flag is 0, so the time is not read. -/
theorem test_sp_unpack_header_without_time :
    answer (exec (.spUnpackHeader (some [0x07, 0xFF, 0x12, 0x34, 0x00, 0x07, 0, 0, 0, 0, 0, 0, 0, 0x2A]))
      State.reset) = some (.header ⟨0, 0, 0, 0x7FF, 0x1234, 0x0007, none⟩) := by decide +kernel

/-! ### Witnesses: for each obligation with hypotheses, values that meet them together -/

theorem witness_CrcOfAMessageWithItsCrcIsZero :
    exec (.frameEncode (some [0x00]) [(0x00 : Byte)].length) State.reset = .next { State.reset with
      responses := State.reset.responses ++ [.encoded ⟨0xAA, 1, [0x00], 0x85F0⟩ [0xAA, 0x01, 0x00, 0x85, 0xF0]] } :=
  eq_of_same (by decide +kernel)
theorem witness_CrcDetectsEverySingleBitError :
    (0 < [(0x01 : Byte)].length ∧ 0 < 8) ∧ (2 < [(0x01 : Byte), 0x02, 0x03].length ∧ 7 < 8) := by decide
theorem witness_BigEndianHelpersPutTheMostSignificantByteFirst : ((p1.drop 6).take 8).length = 8 := by decide
theorem witness_FrameEncodeBuildsTheFrame :
    (1 ≤ 1 ∧ 1 ≤ 64 ∧ 1 ≤ [(0x00 : Byte)].length) ∧
      (1 ≤ 64 ∧ 64 ≤ 64 ∧ 64 ≤ (List.replicate 64 (0xFF : Byte)).length) := by decide
theorem witness_FrameEncodeAnswersInvalidArgument :
    (none : Option ByteSeq) = none ∧ 64 < 65 ∧ (0 : Nat) = 0 ∧
      ∃ data : ByteSeq, some [(0x01 : Byte), 0x02] = some data ∧ data.length < 3 := by
  exact ⟨rfl, by decide, rfl, _, rfl, by decide⟩
theorem witness_FrameEncodeIgnoresBytesPastTheLength :
    3 ≤ [(0x01 : Byte), 0x02, 0x03].length ∧ 3 ≤ [(0x01 : Byte), 0x02, 0x03, 0x04].length ∧
      [(0x01 : Byte), 0x02, 0x03].take 3 = [(0x01 : Byte), 0x02, 0x03, 0x04].take 3 := by decide
/-- The contexts of V-DEC-1's trace keep R33: the four decoder states, VERIFY with both sub-indices. -/
theorem witness_R33_reset : Spec.R33 Context.reset := by unfold Spec.R33; decide
theorem witness_R33_atLen : Spec.R33 atLen := by unfold Spec.R33; decide
theorem witness_R33_atByte1 : Spec.R33 atByte1 := by unfold Spec.R33; decide
theorem witness_R33_atByte2 : Spec.R33 atByte2 := by unfold Spec.R33; decide
theorem witness_R33_atHigh : Spec.R33 atHigh := by unfold Spec.R33; decide
theorem witness_R33_atLow : Spec.R33 atLow := by unfold Spec.R33; decide
theorem witness_R33_accepted : Spec.R33 { atLow with state := .searching } := by unfold Spec.R33; decide
theorem witness_not_R33_broken : ¬ Spec.R33 broken := by unfold Spec.R33; decide

theorem witness_SearchingTakesOnlyTheSyncByte :
    (hold Context.reset).ctx[0]? = some Context.reset ∧ Spec.R33 Context.reset ∧
      Context.reset.state = .searching := ⟨rfl, witness_R33_reset, rfl⟩
theorem witness_ReadLenTakesOneToSixtyFour :
    (hold atLen).ctx[0]? = some atLen ∧ Spec.R33 atLen ∧ atLen.state = .readLen := ⟨rfl, witness_R33_atLen, rfl⟩
/-- The boundaries of R142's range: 1 and 64 are lengths; 0, 65 and 0xAA are discarded. -/
theorem witness_ReadLenTakesOneToSixtyFour_bounds :
    [0x01, 0x40, 0x00, 0x41, 0xAA].map (fun b => (readLenArm atLen b).ctx.state) =
      [.readPayload, .readPayload, .searching, .searching, .searching] := by decide
/-- Both clauses: `atByte1` stays in READ_PAYLOAD, `atByte2` goes to VERIFY. -/
theorem witness_ReadPayloadAppendsTheByte :
    ((hold atByte1).ctx[0]? = some atByte1 ∧ Spec.R33 atByte1 ∧ atByte1.state = .readPayload ∧
      atByte1.fill.toNat + 1 ≠ atByte1.expLen.toNat) ∧
    ((hold atByte2).ctx[0]? = some atByte2 ∧ Spec.R33 atByte2 ∧ atByte2.state = .readPayload ∧
      atByte2.fill.toNat + 1 = atByte2.expLen.toNat) :=
  ⟨⟨rfl, witness_R33_atByte1, rfl, by decide⟩, rfl, witness_R33_atByte2, rfl, by decide⟩
theorem witness_VerifyStoresTheHighCrcByte :
    (hold atHigh).ctx[0]? = some atHigh ∧ Spec.R33 atHigh ∧ atHigh.state = .verify ∧ atHigh.crcIdx = 0 :=
  ⟨rfl, witness_R33_atHigh, rfl, rfl⟩
/-- Both clauses: 0x2B matches the CRC, 0x2C does not. -/
theorem witness_VerifyAcceptsExactlyOnACrcMatch :
    (hold atLow).ctx[0]? = some atLow ∧ Spec.R33 atLow ∧ atLow.state = .verify ∧ atLow.crcIdx = 1 ∧
      Spec.crcNat ([atLow.syncLatch, atLow.expLen] ++ atLow.buf.toList.take atLow.expLen.toNat) = 0x872B ∧
      (atLow.rxCrc ||| (0x2B : Byte).setWidth 16).toNat = 0x872B ∧
      (atLow.rxCrc ||| (0x2C : Byte).setWidth 16).toNat ≠ 0x872B :=
  ⟨rfl, witness_R33_atLow, rfl, rfl, by decide +kernel, by decide, by decide⟩
theorem witness_BadChannelAnswersInvalidArgument : State.reset.ctx.length ≤ 2 := by decide
theorem witness_BrokenContextFaults : (hold broken).ctx[0]? = some broken ∧ ¬ Spec.R33 broken :=
  ⟨rfl, witness_not_R33_broken⟩
/-- One context of each kind: `atHigh` answers Incomplete, `atLow` ends the frame. -/
theorem witness_OnlyTheLastCrcByteEndsAFrame :
    ((hold atHigh).ctx[0]? = some atHigh ∧ Spec.R33 atHigh ∧ ¬ (atHigh.state = .verify ∧ atHigh.crcIdx = 1)) ∧
      ((hold atLow).ctx[0]? = some atLow ∧ Spec.R33 atLow ∧ atLow.state = .verify ∧ atLow.crcIdx = 1) :=
  ⟨⟨rfl, witness_R33_atHigh, by decide⟩, rfl, witness_R33_atLow, rfl, rfl⟩
theorem witness_DecoderAndEncoderShareTheValidationRange : Spec.R33 atLow ∧ atLow.state = .verify :=
  ⟨witness_R33_atLow, rfl⟩
theorem witness_DecoderResetWritesTheResetValues : 1 < (hold broken).ctx.length := by decide
theorem witness_PowerOnStateHoldsTheResetValues : (0 < 1) ∧ (1 < 2) := by decide
/-- A step that runs an operation in a state that keeps the invariant. -/
theorem witness_EveryStepKeepsTheInvariant :
    (pending 0x04 (.ch 1)).Inv ∧
      step (pending 0x04 (.ch 1)) = .next { State.reset with responses := [.ok] } := by
  unfold State.Inv
  exact ⟨by decide, rfl⟩
theorem witness_TheInvariantHoldsAtPowerOn : 1 ≤ 1 := by decide
theorem witness_NoRunReachesAFault : (pending 0x03 (.dec 0 0xAA)).Reachable :=
  .hostIssues _ _ (.powerOn 2 (by decide))
/-- The fault is reached, and only in a context that breaks R33. -/
theorem witness_StepFaultsExactlyOnABrokenContext :
    step { hold broken with requests := [encode (.frameDecodeByte 0 0x01)] } = .fault .contextInvariant ∧
      (hold broken).ctx[0]? = some broken ∧ ¬ Spec.R33 broken := by
  exact ⟨rfl, rfl, witness_not_R33_broken⟩
theorem witness_StepRefusesExactlyUnsendableRequests :
    (pending 0x03 (.ch 0)).requests = ⟨0x03, .ch 0⟩ :: [] ∧ Request.wf ⟨0x03, .ch 0⟩ = false ∧
      step (pending 0x03 (.ch 0)) = .refused (.operandFormat 0x03) :=
  ⟨rfl, rfl, rfl⟩
theorem witness_EveryRequestGetsExactlyOneResponse :
    (pending 0x03 (.dec 0 0xAA)).requests = ⟨0x03, .dec 0 0xAA⟩ :: [] ∧ Request.wf ⟨0x03, .dec 0 0xAA⟩ = true ∧
      ∀ x ∈ (pending 0x03 (.dec 0 0xAA)).ctx, Spec.R33 x :=
  ⟨rfl, rfl, fun _ h => (List.eq_of_mem_replicate h).symm ▸ witness_R33_reset⟩
theorem witness_StepRunsTheDecodedOperation :
    (pending 0x04 (.ch 1)).requests = ⟨0x04, .ch 1⟩ :: [] ∧ decode ⟨0x04, .ch 1⟩ = .op (.frameDecoderReset 1) := by
  decide
/-- The ends of R75's two ranges. -/
theorem witness_ReservedCommandAnswersIllegalOperation :
    (pending 0x0A (.ch 0)).requests = ⟨0x0A, .ch 0⟩ :: [] ∧ (0x00 : Byte).toNat = 0 ∧ 10 ≤ (0x0A : Byte).toNat ∧
      10 ≤ (0xFF : Byte).toNat := by decide
theorem witness_StepIdlesWithoutARequest : State.reset.requests = [] := by decide
/-- The clauses at the ends of their ranges. -/
theorem witness_DecodingIsTotalOnTheCommandByte :
    (1 ≤ (0x01 : Byte).toNat ∧ (0x01 : Byte).toNat ≤ 9 ∧ Request.wf ⟨0x01, .seq []⟩ = true) ∧
      (1 ≤ (0x09 : Byte).toNat ∧ (0x09 : Byte).toNat ≤ 9 ∧ Request.wf ⟨0x09, .seq []⟩ = false) ∧
      ¬ (1 ≤ (0x00 : Byte).toNat ∧ (0x00 : Byte).toNat ≤ 9) ∧ ¬ (1 ≤ (0x0A : Byte).toNat ∧ (0x0A : Byte).toNat ≤ 9) := by
  decide
/-- Clause 1 on a decoder reset; clause 2 on two states that agree on channel 0 alone, once answering, once faulting. -/
theorem witness_AnOperationTouchesOnlyItsChannel :
    (exec (.frameDecoderReset 0) (hold atLow) = .next { State.reset with responses := [.ok] } ∧
      Spec.channel (.frameDecoderReset 0) ≠ some 1) ∧
    (hold broken).ctx[0]? = { hold broken with ctx := [broken, atLow] }.ctx[0]? ∧
    exec (.frameDecodeByte 0 0x01) (hold broken) = .fault .contextInvariant :=
  ⟨⟨rfl, by decide⟩, rfl, rfl⟩
theorem witness_OperationsWithoutAChannelArePure :
    ∀ i ∈ [Instr.crc16 [], .frameEncode none 0, .spWrap 0 none 0 0, .spGetSourceId none, .spHasSecondaryHeader none,
      .spGetTimestamp none, .spUnpackHeader none], Spec.channel i = none := by decide
theorem witness_AnErrorResponseChangesNothingElse :
    exec (.frameEncode none 3) State.reset =
      .next { State.reset with responses := State.reset.responses ++ [.error .invalidArgument] } := rfl
/-- Both clauses: a frame accepted, and a byte taken without an event. -/
theorem witness_DeliverExactlyWhenAccepted :
    exec (.frameDecodeByte 0 0x2B) (hold atLow) = .next
      { hold { atLow with state := .searching, rxCrc := 0x872B } with
        responses := (hold atLow).responses ++ [.frameAccepted [0x01, 0x02, 0x03]]
        events := [.deliver [0x01, 0x02, 0x03] 3] } ∧
    exec (.frameDecodeByte 0 0x87) (hold atHigh) =
      .next { hold atLow with responses := (hold atHigh).responses ++ [.incomplete] } :=
  ⟨eq_of_same (by decide +kernel), eq_of_same (by decide +kernel)⟩
/-- Each of the three premises: the first request names no channel, the second names none, they name two. -/
theorem witness_RequestsOnDifferentChannelsCommute :
    Spec.channel (.crc16 []) = none ∧ Spec.channel (.spGetTimestamp none) = none ∧
      Spec.channel (.frameDecodeByte 0 0xAA) ≠ Spec.channel (.frameDecodeByte 1 0xAA) ∧
      exec (.frameDecodeByte 0 0xAA) State.reset = .next { hold atLen with responses := [.incomplete] } ∧
      exec (.frameDecodeByte 1 0xAA) { hold atLen with responses := [.incomplete] } =
        .next { State.reset with ctx := [atLen, atLen], responses := [.incomplete, .incomplete] } :=
  ⟨rfl, rfl, by decide, rfl, rfl⟩

/-- The shortest and the longest payload, for the byte-stream obligations below. -/
theorem witness_payload_lengths :
    (1 ≤ [(0x00 : Byte)].length ∧ [(0x00 : Byte)].length ≤ 64) ∧
      (1 ≤ (List.replicate 64 (0xAA : Byte)).length ∧ (List.replicate 64 (0xAA : Byte)).length ≤ 64) := by decide
/-- Both clauses on the frame of V-ENC-2: 85 F0 is its CRC, 85 F1 is not. -/
theorem witness_AFrameShapedStreamIsJudgedByItsCrc :
    (hold Context.reset).ctx[0]? = some Context.reset ∧ Spec.R33 Context.reset ∧ Context.reset.state = .searching ∧
      1 ≤ [(0x00 : Byte)].length ∧ [(0x00 : Byte)].length ≤ 64 ∧
      (0x85 : Byte).toNat * 256 + (0xF0 : Byte).toNat = Spec.crcNat [0xAA, 0x01, 0x00] ∧
      (0x85 : Byte).toNat * 256 + (0xF1 : Byte).toNat ≠ Spec.crcNat [0xAA, 0x01, 0x00] :=
  ⟨rfl, witness_R33_reset, rfl, by decide, by decide, by decide +kernel, by decide +kernel⟩
theorem witness_EveryEncodedFrameIsAccepted :
    (hold Context.reset).ctx[0]? = some Context.reset ∧ Spec.R33 Context.reset ∧ Context.reset.state = .searching ∧
      1 ≤ [(0x00 : Byte)].length ∧ [(0x00 : Byte)].length ≤ 64 :=
  ⟨rfl, witness_R33_reset, rfl, by decide, by decide⟩
/-- The first and the last bit of the payload and CRC bytes of a one-byte frame. -/
theorem witness_AnyPayloadOrCrcBitFlipIsRejected :
    (hold Context.reset).ctx[0]? = some Context.reset ∧ Spec.R33 Context.reset ∧ Context.reset.state = .searching ∧
      1 ≤ [(0x00 : Byte)].length ∧ [(0x00 : Byte)].length ≤ 64 ∧
      (2 ≤ 2 ∧ 2 < [(0x00 : Byte)].length + 4 ∧ 0 < 8) ∧ (2 ≤ 4 ∧ 4 < [(0x00 : Byte)].length + 4 ∧ 7 < 8) :=
  ⟨rfl, witness_R33_reset, rfl, by decide⟩
/-- The two kinds of noise: V-DEC-2's 13 37, and a sync byte followed by 0 or by 65. -/
theorem witness_NonSyncNoiseOrABadLengthDoesNotLoseTheNextFrame :
    (hold Context.reset).ctx[0]? = some Context.reset ∧ Spec.R33 Context.reset ∧ Context.reset.state = .searching ∧
      1 ≤ [(0x00 : Byte)].length ∧ [(0x00 : Byte)].length ≤ 64 ∧
      (∀ b ∈ [(0x13 : Byte), 0x37], b ≠ 0xAA) ∧ ((0x00 : Byte) = 0 ∧ 65 ≤ (0x41 : Byte).toNat) :=
  ⟨rfl, witness_R33_reset, rfl, by decide⟩
theorem witness_TheDecoderNeverLocksUp :
    (hold atLen).ctx[0]? = some atLen ∧ Spec.R33 atLen ∧ atLen.state ≠ .searching ∧
      (List.replicate 67 (0x40 : Byte)).length = 67 :=
  ⟨rfl, witness_R33_atLen, by decide, List.length_replicate⟩
theorem witness_ASearchingContextIsUnobservable :
    (hold Context.reset).ctx[0]? = some Context.reset ∧ Spec.R33 Context.reset ∧
      Spec.R33 { atLow with state := .searching } ∧ Context.reset.state = .searching :=
  ⟨rfl, witness_R33_reset, witness_R33_accepted, rfl⟩
theorem witness_NoiseKeepsTheContext :
    (hold { atLow with state := .searching }).ctx[0]? = some { atLow with state := .searching } ∧
      Spec.R33 { atLow with state := .searching } ∧ ∀ b ∈ [(0x13 : Byte), 0x37], b ≠ 0xAA :=
  ⟨rfl, witness_R33_accepted, by decide⟩
/-- No user data, and the most SP_WRAP takes. -/
theorem witness_SpWrapBuildsThePacket :
    (0 ≤ ([] : ByteSeq).length ∧ 0 ≤ 65528) ∧ (65528 ≤ (List.replicate 65528 (0x00 : Byte)).length ∧ 65528 ≤ 65528) :=
  ⟨⟨Nat.zero_le _, Nat.zero_le _⟩, ge_of_eq List.length_replicate, le_refl _⟩
theorem witness_SpWrapAnswersInvalidArgument :
    (none : Option ByteSeq) = none ∧ 65528 < 65529 ∧
      ∃ data : ByteSeq, some [(0x01 : Byte)] = some data ∧ data.length < 2 := by
  exact ⟨rfl, by decide, _, rfl, by decide⟩
/-- The shortest buffer with a header, the longest without, and no buffer. -/
theorem witness_SpUnpackHeaderReadsEveryField :
    6 ≤ (p1.take 6).length ∧ (none : Option ByteSeq) = none ∧ ∃ w, some (p1.take 5) = some w ∧ w.length < 6 := by
  exact ⟨by decide, rfl, _, rfl, by decide⟩
theorem witness_AWrappedPacketReadsBack :
    ([] : ByteSeq).length ≤ 65528 ∧ (List.replicate 65528 (0x00 : Byte)).length ≤ 65528 :=
  ⟨Nat.zero_le _, le_of_eq List.length_replicate⟩
theorem witness_ATimestampImpliesASecondaryHeader :
    exec (.spGetTimestamp (some p1)) State.reset =
      .next { State.reset with responses := State.reset.responses ++ [.timestamp 100] } ∧ (100 : U64) ≠ 0 :=
  ⟨eq_of_same (by decide +kernel), by decide⟩
/-- Both clauses: 50 bytes of user data fit, 51 do not. -/
theorem witness_APacketOfFiftyBytesFitsAFrame :
    (hold Context.reset).ctx[1]? = some Context.reset ∧ Spec.R33 Context.reset ∧ Context.reset.state = .searching ∧
      (List.replicate 50 (0x00 : Byte)).length ≤ 50 ∧ ¬ (List.replicate 51 (0x00 : Byte)).length ≤ 50 ∧
      (List.replicate 51 (0x00 : Byte)).length ≤ 65528 :=
  ⟨rfl, witness_R33_reset, rfl, by decide⟩

end Sys2Proof.Tests
end

/-! Byte streams at the decoder: what a run of FRAME_DECODE_BYTE gives on one context, up to the round trip of an
encoded frame (`42_frame_decoder.md` R140 to R147, R154), and the statements of the scope family. -/

namespace Sys2Proof.Machine

/-! ### The context check and the big-endian helpers -/

/-- The model's check of a context is R33 as the statements restate it. -/
theorem Context.wf_iff_R33 (x : Context) : x.wf = true ↔ Spec.R33 x := by
  have hidx : x.crcIdx.toNat ≤ 1 := Nat.le_of_lt_succ x.crcIdx.isLt
  unfold Spec.R33
  cases hs : x.state with
  | searching => grind [Context.wf_searching hs]
  | readLen => grind [Context.wf_readLen hs]
  | readPayload => grind [Context.wf_readPayload hs]
  | verify => grind [Context.wf_verify hs]

/-- R15: `BE16` puts back together what `toBE16` took apart. -/
theorem be16_toBE16 (v : U16) : be16 (v.extractLsb' 8 8) (v.extractLsb' 0 8) = v := by
  apply BitVec.eq_of_toNat_eq
  have hv := v.isLt
  simp only [be16_toNat, BitVec.extractLsb'_toNat, Nat.shiftRight_eq_div_pow]
  omega

/-- R15 in numbers, two bytes. -/
theorem toBE16_eq_beBytes (v : U16) : toBE16 v = Spec.beBytes 2 v.toNat := by
  simp [toBE16, Spec.beBytes, List.range_succ, BitVec.extractLsb', Nat.shiftRight_eq_div_pow]

/-- R15 in numbers, eight bytes. -/
theorem toBE64_eq_beBytes (v : U64) : toBE64 v = Spec.beBytes 8 v.toNat := by
  simp [toBE64, Spec.beBytes, List.range_succ, BitVec.extractLsb', Nat.shiftRight_eq_div_pow]

/-- R15 in numbers: the first byte is the more significant one. -/
theorem be16_eq_beNat (b0 b1 : Byte) : (be16 b0 b1).toNat = Spec.beNat [b0, b1] := by
  rw [be16_toNat]
  simp [Spec.beNat]

/-- R15 in numbers: the sum of R15 is the big-endian value, for any eight bytes. -/
theorem be64_eq_beNat : ∀ {s : ByteSeq}, s.length = 8 → (be64 s).toNat = Spec.beNat s
  | [b0, b1, b2, b3, b4, b5, b6, b7], _ => by
    rw [be64_toNat]
    simp only [Spec.beNat, List.foldl_cons, List.foldl_nil]
    omega

/-! ### Runs of one context -/

/-- The bytes `bs` take the context `x` to `y`, with the responses `rs` and the events `es`. -/
structure ArmsRun (x : Context) (bs : ByteSeq) (y : Context) (rs : List Response) (es : List Event) : Prop where
  ctx : armsCtx x bs = y
  responses : armsResponses x bs = rs
  events : armsEvents x bs = es

/-- A run in the middle of a frame: every byte answers Incomplete and nothing is emitted. -/
abbrev QuietRun (x : Context) (bs : ByteSeq) (y : Context) : Prop :=
  ArmsRun x bs y (List.replicate bs.length .incomplete) []

section
variable {s : State} {c : Nat} {x y z : Context} {b h l : Byte} {as bs p : ByteSeq} {r : Response}
  {rs rs' : List Response} {es es' : List Event}

theorem ArmsRun.append (ha : ArmsRun x as y rs es) (hb : ArmsRun y bs z rs' es') :
    ArmsRun x (as ++ bs) z (rs ++ rs') (es ++ es') where
  ctx := by rw [armsCtx_append, ha.ctx, hb.ctx]
  responses := by rw [armsResponses_append, ha.ctx, ha.responses, hb.responses]
  events := by rw [armsEvents_append, ha.ctx, ha.events, hb.events]

theorem ArmsRun.single (hb : decoderArm x b = ⟨y, r, es⟩) : ArmsRun x [b] y [r] es := by
  constructor <;> simp [armsCtx, armsResponses, armsEvents, hb]

theorem QuietRun.append (ha : QuietRun x as y) (hb : QuietRun y bs z) : QuietRun x (as ++ bs) z := by
  have hab := ArmsRun.append ha hb
  rwa [List.replicate_append_replicate, ← List.length_append] at hab

theorem QuietRun.cons (hb : decoderArm x b = ⟨y, .incomplete, []⟩) (hr : QuietRun y bs z) :
    QuietRun x (b :: bs) z :=
  QuietRun.append (ArmsRun.single hb) hr

/-- FEED of a run's bytes to the channel that holds its context (R92). -/
theorem feed_of_armsRun (hc : s.ctx[c]? = some x) (hw : x.wf = true) (hr : ArmsRun x bs y rs es) :
    feed c bs s = .next { s with
      ctx := s.ctx.set c y
      responses := s.responses ++ rs
      events := s.events ++ es } := by
  rw [feed_eq hc hw, hr.ctx, hr.responses, hr.events]

/-! ### The bytes of a frame -/

/-- R143: the payload bytes still missing fill the buffer from the fill index on and lead to VERIFY. -/
theorem quietRun_payload (hs : x.state = .readPayload) (h64 : x.expLen.toNat ≤ 64) (hne : bs ≠ [])
    (hlen : x.fill.toNat + bs.length = x.expLen.toNat) :
    QuietRun x bs { x with
      buf := memWrite x.buf x.fill.toNat bs, fill := x.expLen.setWidth 7, crcIdx := 0, rxCrc := 0,
      state := .verify } := by
  induction bs generalizing x with
  | nil => exact absurd rfl hne
  | cons b bs ih =>
    rw [List.length_cons] at hlen
    have hf : x.fill.toNat < 64 := by omega
    have hfill := Context.fill_succ hf
    by_cases hbs : bs = []
    · subst hbs
      have hlast : x.fill.toNat + 1 = x.expLen.toNat := hlen
      have hend : x.fill + 1 = x.expLen.setWidth 7 := by
        apply BitVec.eq_of_toNat_eq
        rw [hfill, BitVec.toNat_setWidth]
        omega
      have harm := (decoderArm_readPayload hs).trans (readPayloadArm_last (b := b) hf hlast)
      rw [hend] at harm
      exact ArmsRun.single harm
    · have hmore : x.fill.toNat + 1 ≠ x.expLen.toNat := by
        have := List.length_pos_iff.mpr hbs
        omega
      have harm := (decoderArm_readPayload hs).trans (readPayloadArm_more (b := b) hf hmore)
      have hrest := ih
        (x := { x with buf := x.buf.setIfInBounds x.fill.toNat b, fill := x.fill + 1 }) hs h64 hbs
        (show (x.fill + 1).toNat + bs.length = x.expLen.toNat by omega)
      have hrun := QuietRun.cons harm hrest
      rwa [hfill] at hrun

/-- R16: a write inside the buffer puts the bytes at its offset and leaves the rest. -/
theorem memWrite_toList (buf : Vector Byte 64) {off : Nat} (hle : off + bs.length ≤ 64) :
    (memWrite buf off bs).toList = buf.toList.take off ++ bs ++ buf.toList.drop (off + bs.length) := by
  induction bs generalizing buf off with
  | nil => simp [memWrite]
  | cons b bs ih =>
    rw [List.length_cons] at hle
    have hoff : off < buf.toList.length := by rw [Vector.length_toList]; omega
    have htake : (buf.toList.set off b).take (off + 1) = buf.toList.take off ++ [b] := by
      rw [List.take_add_one, List.take_set_of_le le_rfl, List.getElem?_set_self hoff, Option.toList_some]
    rw [memWrite, ih _ (by omega), Vector.toList_setIfInBounds, htake, List.drop_set_of_lt (by omega),
      List.append_assoc _ [b], List.singleton_append, List.length_cons, Nat.add_assoc off 1, Nat.add_comm 1]

/-! ### The contexts a frame passes through, from SEARCHING -/

/-- The context that has taken the sync byte and the legal length `n` (R141, R142). -/
def Context.awaitingPayload (x : Context) (n : Byte) : Context :=
  { x with syncLatch := 0xAA, buf := Vector.replicate 64 0x00, expLen := n, fill := 0, state := .readPayload }

/-- The context that has taken a frame's header and its payload `p`: no field depends on the context before (R143). -/
def Context.awaitingCrc (p : ByteSeq) : Context where
  state := .verify
  syncLatch := 0xAA
  buf := memWrite (Vector.replicate 64 0x00) 0 p
  expLen := BitVec.ofNat 8 p.length
  fill := BitVec.ofNat 7 p.length
  crcIdx := 0
  rxCrc := 0x0000

/-- The context that has also taken the high CRC byte `h` (R144). -/
def Context.awaitingLowCrc (p : ByteSeq) (h : Byte) : Context :=
  { Context.awaitingCrc p with rxCrc := zext16 h <<< 8, crcIdx := 1 }

/-- The context after the whole frame, accepted or rejected (R145, R149). -/
def Context.afterFrame (p : ByteSeq) (h l : Byte) : Context :=
  { Context.awaitingLowCrc p h with rxCrc := be16 h l, state := .searching }

/-- R76: a legal length is its length byte's value. -/
theorem lengthByte_toNat {n : Nat} (h64 : n ≤ 64) : (BitVec.ofNat 8 n).toNat = n := Nat.mod_eq_of_lt (by omega)

/-- The buffer holds the payload, and zeros past it (R141, R143). -/
theorem Context.awaitingCrc_buf (h64 : p.length ≤ 64) :
    (Context.awaitingCrc p).buf.toList = p ++ List.replicate (64 - p.length) 0x00 := by
  refine (memWrite_toList (Vector.replicate 64 0x00) (by omega)).trans ?_
  simp only [Vector.toList_replicate, List.take_zero, List.nil_append, Nat.zero_add, List.drop_replicate]

/-- The payload that is verified and delivered is the payload that was sent (R145). -/
theorem Context.awaitingLowCrc_payload (h64 : p.length ≤ 64) : (Context.awaitingLowCrc p h).payload = p := by
  have hbuf : (Context.awaitingLowCrc p h).buf.toList = _ := Context.awaitingCrc_buf h64
  have hlen : (Context.awaitingLowCrc p h).expLen.toNat = p.length := lengthByte_toNat h64
  rw [Context.payload, hbuf, hlen, List.take_left]

/-- R141, R142: from SEARCHING, the sync byte and a legal length. -/
theorem quietRun_header (hs : x.state = .searching) (h1 : 1 ≤ b.toNat) (h64 : b.toNat ≤ 64) :
    QuietRun x [0xAA, b] (x.awaitingPayload b) := by
  have hsync := (decoderArm_searching hs).trans (searchingArm_sync x)
  exact QuietRun.cons hsync (ArmsRun.single ((decoderArm_readLen rfl).trans (readLenArm_legal h1 h64)))

/-- R141 to R143: from SEARCHING, a frame's header and its payload. -/
theorem quietRun_headerAndPayload (hs : x.state = .searching) (h1 : 1 ≤ p.length) (h64 : p.length ≤ 64) :
    QuietRun x ([0xAA, BitVec.ofNat 8 p.length] ++ p) (Context.awaitingCrc p) := by
  have hL := lengthByte_toNat h64
  have hlen : (x.awaitingPayload (BitVec.ofNat 8 p.length)).expLen.toNat = p.length := hL
  have hpay := quietRun_payload (x := x.awaitingPayload (BitVec.ofNat 8 p.length)) rfl (by omega)
    (List.length_pos_iff.mp h1) ((Nat.zero_add _).trans hlen.symm)
  have hfill : (BitVec.ofNat 8 p.length).setWidth 7 = BitVec.ofNat 7 p.length := by
    apply BitVec.eq_of_toNat_eq
    rw [BitVec.toNat_setWidth, hL, BitVec.toNat_ofNat]
  have hrun := QuietRun.append (quietRun_header hs (by omega) (by omega)) hpay
  simp only [Context.awaitingPayload, hfill] at hrun
  exact hrun

/-- R141 to R144: from SEARCHING, all of a frame but its last byte. -/
theorem quietRun_upToLowCrc (hs : x.state = .searching) (h1 : 1 ≤ p.length) (h64 : p.length ≤ 64) (h : Byte) :
    QuietRun x ([0xAA, BitVec.ofNat 8 p.length] ++ p ++ [h]) (Context.awaitingLowCrc p h) :=
  QuietRun.append (quietRun_headerAndPayload hs h1 h64) (ArmsRun.single (decoderArm_verifyHigh rfl rfl))

/-- R145: the last byte of a frame whose received CRC is the CRC of its validation range. -/
theorem decoderArm_awaitingLowCrc_match (h64 : p.length ≤ 64)
    (hcrc : crc16 (validationRange 0xAA (BitVec.ofNat 8 p.length) p) = be16 h l) :
    decoderArm (Context.awaitingLowCrc p h) l =
      ⟨Context.afterFrame p h l, .frameAccepted p, [.deliver p p.length]⟩ := by
  have hpay := Context.awaitingLowCrc_payload (h := h) h64
  have hlen : (Context.awaitingLowCrc p h).expLen.toNat = p.length := lengthByte_toNat h64
  rw [decoderArm_verifyLow rfl rfl, verifyLowArm_match (by rw [hpay]; exact hcrc), hpay, hlen]
  rfl

/-- R145: from SEARCHING, a frame with the CRC of its validation range is accepted by its last byte and not before. -/
theorem armsRun_frame_match (hs : x.state = .searching) (h1 : 1 ≤ p.length) (h64 : p.length ≤ 64)
    (hcrc : crc16 (validationRange 0xAA (BitVec.ofNat 8 p.length) p) = be16 h l) :
    ArmsRun x ([0xAA, BitVec.ofNat 8 p.length] ++ p ++ [h] ++ [l]) (Context.afterFrame p h l)
      (List.replicate (p.length + 3) .incomplete ++ [.frameAccepted p]) [.deliver p p.length] := by
  have hlast := ArmsRun.single (decoderArm_awaitingLowCrc_match h64 hcrc)
  have hlen : ([0xAA, BitVec.ofNat 8 p.length] ++ p ++ [h]).length = p.length + 3 := by simp
  rw [← hlen]
  exact ArmsRun.append (quietRun_upToLowCrc hs h1 h64 h) hlast

/-- R81, R122: the wire bytes of the frame around `p`. -/
theorem frameBytes_frameOf (n : Byte) (p : ByteSeq) :
    frameBytes (frameOf n p) = [0xAA, n] ++ p ++ [(crc16 (validationRange 0xAA n p)).extractLsb' 8 8] ++
      [(crc16 (validationRange 0xAA n p)).extractLsb' 0 8] := by
  simp [frameBytes, frameOf, toBE16, Params.sync]

/-- R154: FEED of an encoded frame to a channel in SEARCHING delivers its payload. -/
theorem feed_encodedFrame (hc : s.ctx[c]? = some x) (hx : Spec.R33 x) (hs : x.state = .searching)
    (h1 : 1 ≤ p.length) (h64 : p.length ≤ 64) :
    ∃ y, y.state = .searching ∧
      feed c (frameBytes (frameOf (BitVec.ofNat 8 p.length) p)) s = .next { s with
        ctx := s.ctx.set c y
        responses := s.responses ++ List.replicate (p.length + 3) .incomplete ++ [.frameAccepted p]
        events := s.events ++ [.deliver p p.length] } := by
  have hrun := armsRun_frame_match hs h1 h64 (be16_toBE16 _).symm
  rw [← frameBytes_frameOf] at hrun
  have hfeed := feed_of_armsRun hc ((Context.wf_iff_R33 x).mpr hx) hrun
  rw [← List.append_assoc] at hfeed
  exact ⟨_, rfl, hfeed⟩

/-! ### FRAME_ENCODE and SP_WRAP on a whole sequence -/

theorem exec_frameEncode (payload : Option ByteSeq) (n : Nat) (s : State) :
    exec (.frameEncode payload n) s = .next (s.respond (frameEncode payload n)) := rfl

theorem exec_spWrap (sourceId : U16) (userData : Option ByteSeq) (n : Nat) (nowMs : U64) (s : State) :
    exec (.spWrap sourceId userData n nowMs) s = .next (s.respond (spWrap sourceId userData n nowMs)) := rfl

/-- R122: FRAME_ENCODE of a whole payload of legal length. -/
theorem exec_frameEncode_whole (h1 : 1 ≤ p.length) (h64 : p.length ≤ 64) (s : State) :
    exec (.frameEncode (some p) p.length) s = .next { s with responses := s.responses ++
      [.encoded (frameOf (BitVec.ofNat 8 p.length) p) (frameBytes (frameOf (BitVec.ofNat 8 p.length) p))] } := by
  rw [exec_frameEncode, frameEncode_some h1 h64 le_rfl, List.take_length]
  rfl

/-- R121: a length past MAX_PAYLOAD is an invalid argument, whatever the payload. -/
theorem frameEncode_tooLong {n : Nat} (hn : 64 < n) :
    ∀ payload : Option ByteSeq, frameEncode payload n = .error .invalidArgument
  | none => rfl
  | some _ => if_pos hn

/-- R121: FRAME_ENCODE answers it so, and nothing but the responses changes. -/
theorem exec_frameEncode_tooLong {payload : Option ByteSeq} {n : Nat} (hn : 64 < n) (s : State) :
    exec (.frameEncode payload n) s =
      .next { s with responses := s.responses ++ [.error .invalidArgument] } := by
  rw [exec_frameEncode, frameEncode_tooLong hn]
  rfl

/-- R181: SP_WRAP of whole user data of legal length. -/
theorem exec_spWrap_whole {sourceId : U16} {data : ByteSeq} {nowMs : U64} (hmax : data.length ≤ 65528) (s : State) :
    exec (.spWrap sourceId (some data) data.length nowMs) s =
      .next { s with responses := s.responses ++ [.packet (packetBytes sourceId data nowMs)] } := by
  rw [exec_spWrap, spWrap_some le_rfl hmax, List.take_length]
  rfl

end

/-! ### The statements -/

/-- Settles O56: the packet's 14 header bytes leave 50 of the frame's 64, and an encoded frame is delivered whole. -/
theorem aPacketOfFiftyBytesFitsAFrame : Obligations.APacketOfFiftyBytesFitsAFrame := by
  unfold Obligations.APacketOfFiftyBytesFitsAFrame
  intro s c x sourceId data nowMs hc hx hs hmax
  have hlen : (packetBytes sourceId data nowMs).length = 14 + data.length := packetBytes_length
  refine ⟨packetBytes sourceId data nowMs, exec_spWrap_whole hmax s, ?_⟩
  split
  next hfits =>
    have h1 : 1 ≤ (packetBytes sourceId data nowMs).length := by omega
    have h64 : (packetBytes sourceId data nowMs).length ≤ 64 := by omega
    obtain ⟨y, -, hfeed⟩ := feed_encodedFrame hc hx hs h1 h64
    exact ⟨_, _, y, exec_frameEncode_whole h1 h64 s, hfeed⟩
  next hlong => exact exec_frameEncode_tooLong (by omega) s

/-- Settles O6, helper by helper. -/
theorem bigEndianHelpersPutTheMostSignificantByteFirst :
    Obligations.BigEndianHelpersPutTheMostSignificantByteFirst := by
  unfold Obligations.BigEndianHelpersPutTheMostSignificantByteFirst
  exact ⟨be16_eq_beNat, fun _ hlen => be64_eq_beNat hlen, toBE16_eq_beBytes, toBE64_eq_beBytes⟩

/-- Settles O30: `step_of_requests` at what the decoder finds. -/
theorem stepRunsTheDecodedOperation : Obligations.StepRunsTheDecodedOperation := by
  unfold Obligations.StepRunsTheDecodedOperation
  intro s r rest i hreq hdec
  rw [step_of_requests hreq, hdec]

end Sys2Proof.Machine

/-! The machine's state (`10_state.md`): what an operation reads and writes, what a step keeps, where it faults, and
which fields of a context can be observed; then the statements of the state family. -/

namespace Sys2Proof.Machine

/-! ### The two operations that name a channel -/

section
variable {s t u : State} {c : Nat} {x : Context} {i : Instr} {r : Request} {f : Fault}

theorem exec_frameDecodeByte (c : Nat) (b : Byte) (s : State) :
    exec (.frameDecodeByte c b) s = execFrameDecodeByte c b s := rfl

theorem exec_frameDecoderReset (c : Nat) (s : State) :
    exec (.frameDecoderReset c) s = execFrameDecoderReset c s := rfl

/-- R73: a byte for a channel that does not exist. -/
theorem exec_frameDecodeByte_badChannel (hc : s.ctx[c]? = none) (b : Byte) :
    exec (.frameDecodeByte c b) s = .next (s.respond (.error .invalidArgument)) := by
  rw [exec_frameDecodeByte, execFrameDecodeByte, State.context?_eq, hc]
  rfl

/-- R140: a byte for a context that keeps R33 runs the arm of the context's state. -/
theorem exec_frameDecodeByte_of_wf (hc : s.ctx[c]? = some x) (hw : x.wf = true) (b : Byte) :
    exec (.frameDecodeByte c b) s = .next (applyArm s c (decoderArm x b)) :=
  execFrameDecodeByte_of_wf hc hw

/-- R35: a byte for a context that breaks R33. -/
theorem exec_frameDecodeByte_broken (hc : s.ctx[c]? = some x) (hx : ¬ Spec.R33 x) (b : Byte) :
    exec (.frameDecodeByte c b) s = .fault .contextInvariant := by
  have hw : ¬ x.wf = true := fun hw => hx ((Context.wf_iff_R33 x).mp hw)
  rw [exec_frameDecodeByte, execFrameDecodeByte, State.context?_eq, hc]
  exact if_neg hw

/-- R73: a reset of a channel that does not exist. -/
theorem exec_frameDecoderReset_badChannel (hc : s.ctx[c]? = none) :
    exec (.frameDecoderReset c) s = .next (s.respond (.error .invalidArgument)) := by
  rw [exec_frameDecoderReset, execFrameDecoderReset, State.context?_eq, hc]
  rfl

/-- R150: a reset of a legal channel, whatever its context holds. -/
theorem exec_frameDecoderReset_legal (hc : s.ctx[c]? = some x) :
    exec (.frameDecoderReset c) s = .next ((s.setContext c Context.reset).respond .ok) := by
  rw [exec_frameDecoderReset, execFrameDecoderReset, State.context?_eq, hc]

/-- An arm that emits nothing writes its context and answers. -/
theorem applyArm_quiet (s : State) (c : Nat) (x : Context) (r : Response) :
    applyArm s c ⟨x, r, []⟩ = (s.setContext c x).respond r := by
  rw [applyArm, State.emit, List.append_nil]

/-- R16: an arm's context can be read back from its channel. -/
theorem applyArm_ctx_self (hc : s.ctx[c]? = some x) (a : ArmResult) : (applyArm s c a).ctx[c]? = some a.ctx :=
  State.context?_setContext s c x hc a.ctx

/-! ### What an operation can do -/

/-- R34, R124, R180: an operation that names no channel gives one response, whatever the state. -/
theorem exec_of_channel_eq_none (hi : Spec.channel i = none) :
    ∃ r : Response, ∀ s : State, exec i s = .next (s.respond r) := by
  cases i with
  | frameDecodeByte c b => cases hi
  | frameDecoderReset c => cases hi
  | crc16 data => exact ⟨_, fun _ => rfl⟩
  | frameEncode payload length => exact ⟨_, exec_frameEncode payload length⟩
  | spWrap sourceId userData n nowMs => exact ⟨_, exec_spWrap sourceId userData n nowMs⟩
  | spGetSourceId buffer => exact ⟨_, fun _ => rfl⟩
  | spHasSecondaryHeader buffer => exact ⟨_, fun _ => rfl⟩
  | spGetTimestamp buffer => exact ⟨_, fun _ => rfl⟩
  | spUnpackHeader buffer => exact ⟨_, fun _ => rfl⟩

/-- The two states hold the same at the channel that `i` names, if it names one. -/
def AgreeAtChannel (i : Instr) (s u : State) : Prop :=
  ∀ c, Spec.channel i = some c → s.ctx[c]? = u.ctx[c]?

theorem AgreeAtChannel.refl (i : Instr) (s : State) : AgreeAtChannel i s s := fun _ _ => rfl

/-- What the operation `i` does in the state `s`, and just so in every state that agrees with `s` at its channel
(R28). -/
inductive Effect (i : Instr) (s : State) : Prop
  /-- It answers and writes no context. -/
  | answers (r : Response) (run : ∀ u, AgreeAtChannel i s u → exec i u = .next (u.respond r))
  /-- It writes its channel's context, which then keeps R33. -/
  | writes (c : Nat) (x : Context) (a : ArmResult) (channel : Spec.channel i = some c) (legal : s.ctx[c]? = some x)
      (wf : a.ctx.wf = true) (run : ∀ u : State, u.ctx[c]? = some x → exec i u = .next (applyArm u c a))
  /-- It is a byte for a context that breaks R33. -/
  | faults (c : Nat) (b : Byte) (x : Context) (op : i = .frameDecodeByte c b) (legal : s.ctx[c]? = some x)
      (broken : ¬ Spec.R33 x)

theorem effect_frameDecodeByte (c : Nat) (b : Byte) (s : State) : Effect (.frameDecodeByte c b) s := by
  cases hc : s.ctx[c]? with
  | none => exact .answers _ fun u hu => exec_frameDecodeByte_badChannel ((hu c rfl).symm.trans hc) b
  | some x =>
    by_cases hx : Spec.R33 x
    · have hw := (Context.wf_iff_R33 x).mpr hx
      exact .writes c x (decoderArm x b) rfl hc (decoderArm_wf hw b) fun u hu => exec_frameDecodeByte_of_wf hu hw b
    · exact .faults c b x rfl hc hx

theorem effect_frameDecoderReset (c : Nat) (s : State) : Effect (.frameDecoderReset c) s := by
  cases hc : s.ctx[c]? with
  | none => exact .answers _ fun u hu => exec_frameDecoderReset_badChannel ((hu c rfl).symm.trans hc)
  | some x =>
    refine .writes c x ⟨Context.reset, .ok, []⟩ rfl hc Context.wf_reset fun u hu => ?_
    rw [exec_frameDecoderReset_legal hu, applyArm_quiet]

/-- R28, once for every operation. -/
theorem exec_effect (i : Instr) (s : State) : Effect i s := by
  cases hi : Spec.channel i with
  | none =>
    obtain ⟨r, hr⟩ := exec_of_channel_eq_none hi
    exact .answers r fun u _ => hr u
  | some c =>
    cases i with
    | frameDecodeByte c b => exact effect_frameDecodeByte c b s
    | frameDecoderReset c => exact effect_frameDecoderReset c s
    | _ => cases hi

/-- R35: the one fault of an operation. -/
theorem exec_eq_fault_iff :
    exec i s = .fault f ↔ f = .contextInvariant ∧
      ∃ c b x, i = .frameDecodeByte c b ∧ s.ctx[c]? = some x ∧ ¬ Spec.R33 x := by
  constructor
  · intro hf
    cases exec_effect i s with
    | answers r run => cases (run s (.refl i s)).symm.trans hf
    | writes c x a hi hc hw run => cases (run s hc).symm.trans hf
    | faults c b x hi hc hx => exact ⟨by cases f; rfl, c, b, x, hi, hc, hx⟩
  · rintro ⟨rfl, c, b, x, rfl, hc, hx⟩
    exact exec_frameDecodeByte_broken hc hx b

/-- What an operation that gives a next state did: it answered alone, or it also wrote its channel's context. -/
theorem exec_next (ht : exec i s = .next t) :
    (∃ r, t = s.respond r ∧ ∀ u, AgreeAtChannel i s u → exec i u = .next (u.respond r)) ∨
    ∃ c x a, Spec.channel i = some c ∧ s.ctx[c]? = some x ∧ a.ctx.wf = true ∧ t = applyArm s c a ∧
      ∀ u : State, u.ctx[c]? = some x → exec i u = .next (applyArm u c a) := by
  cases exec_effect i s with
  | answers r run =>
    cases (run s (.refl i s)).symm.trans ht
    exact .inl ⟨r, rfl, run⟩
  | writes c x a hi hc hw run =>
    cases (run s hc).symm.trans ht
    exact .inr ⟨c, x, a, hi, hc, hw, rfl, run⟩
  | faults c b x hi hc hx =>
    have hf : exec i s = .fault .contextInvariant := exec_eq_fault_iff.mpr ⟨rfl, c, b, x, hi, hc, hx⟩
    cases hf.symm.trans ht

/-- R28, R60: an operation leaves the queue, the number of channels and every channel but its own. -/
theorem exec_frame (ht : exec i s = .next t) :
    t.requests = s.requests ∧ t.ctx.length = s.ctx.length ∧
      ∀ c, Spec.channel i ≠ some c → t.ctx[c]? = s.ctx[c]? := by
  obtain ⟨r, rfl, -⟩ | ⟨c, x, a, hi, -, -, rfl, -⟩ := exec_next ht
  · exact ⟨rfl, rfl, fun _ _ => rfl⟩
  · refine ⟨rfl, List.length_set, fun d hd => ?_⟩
    have hne : c ≠ d := fun hcd => hd (hcd ▸ hi)
    exact List.getElem?_set_ne hne

/-- R28: in two states that agree at its channel an operation answers, emits and writes the same. -/
theorem exec_agree (hu : AgreeAtChannel i s u) (ht : exec i s = .next t) :
    ∃ (v : State) (r : Response) (es : List Event), exec i u = .next v ∧
      t.responses = s.responses ++ [r] ∧ v.responses = u.responses ++ [r] ∧
      t.events = s.events ++ es ∧ v.events = u.events ++ es ∧
      ∀ c, Spec.channel i = some c → t.ctx[c]? = v.ctx[c]? := by
  obtain ⟨r, rfl, run⟩ | ⟨c, x, a, hi, hc, -, rfl, run⟩ := exec_next ht
  · exact ⟨_, r, [], run u hu, rfl, rfl, (List.append_nil _).symm, (List.append_nil _).symm, hu⟩
  · have huc : u.ctx[c]? = some x := (hu c hi).symm.trans hc
    refine ⟨_, a.response, a.events, run u huc, rfl, rfl, rfl, rfl, fun d hd => ?_⟩
    cases hi.symm.trans hd
    rw [applyArm_ctx_self hc, applyArm_ctx_self huc]

/-! ### The invariant -/

/-- The invariant is about the contexts alone. -/
theorem State.Inv.of_ctx_eq (hs : s.Inv) (h : u.ctx = s.ctx) : u.Inv := by
  unfold State.Inv
  rwa [h]

theorem State.Inv.of_applyArm {a : ArmResult} (hs : s.Inv) (hw : a.ctx.wf = true) (c : Nat) :
    (applyArm s c a).Inv := by
  obtain ⟨hlen, hwf⟩ := hs
  refine ⟨by rwa [applyArm_ctx, List.length_set], fun x hx => ?_⟩
  obtain hx | rfl := List.mem_or_eq_of_mem_set hx
  · exact hwf x hx
  · exact hw

theorem State.Inv.of_exec (hs : s.Inv) (ht : exec i s = .next t) : t.Inv := by
  obtain ⟨r, rfl, -⟩ | ⟨c, x, a, -, -, hw, rfl, -⟩ := exec_next ht
  · exact hs.of_ctx_eq rfl
  · exact hs.of_applyArm hw c

/-- R33: every step keeps the invariant. -/
theorem State.Inv.of_step (hs : s.Inv) (ht : step s = .next t) : t.Inv := by
  obtain ⟨-, rfl⟩ | ⟨r, rest, -, ⟨i, -, hrun⟩ | ⟨cmd, -, rfl⟩⟩ := step_next ht
  · exact hs
  · have htaken : State.Inv { s with requests := rest } := hs.of_ctx_eq rfl
    exact htaken.of_exec hrun
  · exact hs.of_ctx_eq rfl

/-- R243: the number of channels never changes. -/
theorem step_length_ctx (ht : step s = .next t) : t.ctx.length = s.ctx.length := by
  obtain ⟨-, rfl⟩ | ⟨r, rest, -, ⟨i, -, hrun⟩ | ⟨cmd, -, rfl⟩⟩ := step_next ht
  · rfl
  · obtain ⟨-, hlen, -⟩ := exec_frame hrun
    exact hlen
  · rfl

/-- R33, R240: it holds as the core comes up. -/
theorem State.Inv.resetWith {n : Nat} (hn : 1 ≤ n) : (State.resetWith n).Inv := by
  refine ⟨by rwa [State.resetWith, List.length_replicate], fun x hx => ?_⟩
  obtain rfl : x = Context.reset := List.eq_of_mem_replicate hx
  exact Context.wf_reset

/-- It holds in every state a run reaches. -/
theorem State.Reachable.inv (hs : s.Reachable) : s.Inv := by
  induction hs with
  | powerOn n hn => exact .resetWith hn
  | hostIssues s r _ ih => exact ih.of_ctx_eq rfl
  | coreSteps s t _ ht ih => exact ih.of_step ht

theorem State.Inv.r33 (hs : s.Inv) : ∀ x ∈ s.ctx, Spec.R33 x :=
  fun x hx => (Context.wf_iff_R33 x).mp (hs.2 x hx)

/-! ### Where a step faults -/

/-- R70 to R72: a request that decodes to an operation is the one that `encode` builds. -/
theorem eq_encode_of_decode (h : decode r = .op i) : r = encode i := by
  obtain ⟨cmd, ops⟩ := r
  unfold decode at h
  split at h
  next => cases h
  next =>
    split at h <;> cases h
    all_goals
      next hcmd hops => exact congrArg₂ Request.mk (BitVec.eq_of_toNat_eq hcmd) hops

/-- R35: a step faults where the operation of its oldest request does. -/
theorem step_eq_fault_iff :
    step s = .fault f ↔ ∃ r rest i, s.requests = r :: rest ∧ decode r = .op i ∧
      exec i { s with requests := rest } = .fault f := by
  cases hreq : s.requests with
  | nil => simp [step_of_no_request hreq]
  | cons r rest =>
    rw [step_of_requests hreq]
    cases hdec : decode r <;> simp [hdec]

end

/-! ### What can be observed of a context -/

/-- The context with other values in the CRC sub-index and accumulator. -/
def Context.withCrc (x : Context) (i : BitVec 1) (v : U16) : Context := { x with crcIdx := i, rxCrc := v }

/-- The context with other values in the expected length and the fill index too. -/
def Context.withCounts (x : Context) (n : Byte) (f : BitVec 7) (i : BitVec 1) (v : U16) : Context :=
  { x with expLen := n, fill := f, crcIdx := i, rxCrc := v }

/-- R37: the two contexts hold the same in every field that the bytes to come can bring to light. -/
inductive Context.Alike : Context → Context → Prop
  /-- In SEARCHING no field is read before it is written. -/
  | searching {x y : Context} (hx : x.state = .searching) (hy : y.state = .searching) : Alike x y
  /-- In READ_LEN only the latched sync byte and the buffer are. -/
  | readLen {x : Context} (hx : x.state = .readLen) (n : Byte) (f : BitVec 7) (i : BitVec 1) (v : U16) :
    Alike x (x.withCounts n f i v)
  /-- In READ_PAYLOAD all but the CRC sub-index and accumulator are. -/
  | readPayload {x : Context} (hx : x.state = .readPayload) (i : BitVec 1) (v : U16) :
    Alike x (x.withCrc i v)
  | refl (x : Context) : Alike x x

/-- The same response and events, and contexts that stay alike. -/
structure ArmResult.Alike (a a' : ArmResult) : Prop where
  response : a.response = a'.response
  events : a.events = a'.events
  ctx : a.ctx.Alike a'.ctx

section
variable {s : State} {c : Nat} {x y : Context}

theorem ArmResult.Alike.refl (a : ArmResult) : a.Alike a := ⟨rfl, rfl, .refl _⟩

/-- R141 writes the sync byte and the whole buffer, or nothing. -/
theorem searchingArm_alike (hx : x.state = .searching) (hy : y.state = .searching) (b : Byte) :
    (searchingArm x b).Alike (searchingArm y b) := by
  by_cases hb : b = 0xAA
  · subst hb
    exact ⟨rfl, rfl, .readLen rfl y.expLen y.fill y.crcIdx y.rxCrc⟩
  · rw [searchingArm_other hb, searchingArm_other hb]
    exact ⟨rfl, rfl, .searching hx hy⟩

/-- R142 writes the expected length and the fill index, or goes back to SEARCHING. -/
theorem readLenArm_alike (x : Context) (n : Byte) (f : BitVec 7) (i : BitVec 1) (v : U16) (b : Byte) :
    (readLenArm x b).Alike (readLenArm (x.withCounts n f i v) b) := by
  by_cases hb : 1 ≤ b.toNat ∧ b.toNat ≤ 64
  · obtain ⟨h1, h64⟩ := hb
    rw [readLenArm_legal h1 h64, readLenArm_legal h1 h64]
    exact ⟨rfl, rfl, .readPayload rfl i v⟩
  · have hbad : b.toNat < 1 ∨ 64 < b.toNat := by omega
    rw [readLenArm_malformed hbad, readLenArm_malformed hbad]
    exact ⟨rfl, rfl, .searching rfl rfl⟩

/-- R143 writes the CRC sub-index and accumulator with the last payload byte. -/
theorem readPayloadArm_alike (hx : x.state = .readPayload) (hf : x.fill.toNat < 64) (i : BitVec 1) (v : U16)
    (b : Byte) : (readPayloadArm x b).Alike (readPayloadArm (x.withCrc i v) b) := by
  by_cases hm : x.fill.toNat + 1 = x.expLen.toNat
  · rw [readPayloadArm_last hf hm, readPayloadArm_last (x := x.withCrc i v) hf hm]
    exact .refl _
  · rw [readPayloadArm_more hf hm, readPayloadArm_more (x := x.withCrc i v) hf hm]
    exact ⟨rfl, rfl, .readPayload (by exact hx) i v⟩

/-- No byte tells two contexts apart that are alike. -/
theorem decoderArm_alike (h : x.Alike y) (hw : x.wf = true) (b : Byte) :
    (decoderArm x b).Alike (decoderArm y b) := by
  cases h with
  | searching hx hy =>
    rw [decoderArm_searching hx, decoderArm_searching hy]
    exact searchingArm_alike hx hy b
  | readLen hx n f i v =>
    rw [decoderArm_readLen hx, decoderArm_readLen (x := x.withCounts n f i v) hx]
    exact readLenArm_alike x n f i v b
  | readPayload hx i v =>
    obtain ⟨-, -, h64, hlt⟩ := (Context.wf_readPayload hx).mp hw
    rw [decoderArm_readPayload hx, decoderArm_readPayload (x := x.withCrc i v) hx]
    exact readPayloadArm_alike hx (by omega) i v b
  | refl => exact .refl _

/-- Nor does any sequence of bytes. -/
theorem arms_alike (h : x.Alike y) (hw : x.wf = true) (bs : ByteSeq) :
    armsResponses x bs = armsResponses y bs ∧ armsEvents x bs = armsEvents y bs := by
  induction bs generalizing x y with
  | nil => exact ⟨rfl, rfl⟩
  | cons b bs ih =>
    obtain ⟨hresp, hev, hctx⟩ := decoderArm_alike h hw b
    obtain ⟨hresps, hevs⟩ := ih hctx (decoderArm_wf hw b)
    exact ⟨congrArg₂ List.cons hresp hresps, congrArg₂ (· ++ ·) hev hevs⟩

end

/-! ### The statements -/

/-- Settles O24: whatever a step does, it leaves the contexts or writes one that keeps R33. -/
theorem everyStepKeepsTheInvariant : Obligations.EveryStepKeepsTheInvariant := by
  unfold Obligations.EveryStepKeepsTheInvariant
  exact fun _ _ hs ht => ⟨hs.of_step ht, step_length_ctx ht⟩

/-- Settles O27: only an operation faults, and the request that decodes to it is the one `encode` builds. -/
theorem stepFaultsExactlyOnABrokenContext : Obligations.StepFaultsExactlyOnABrokenContext := by
  unfold Obligations.StepFaultsExactlyOnABrokenContext
  intro s f
  rw [step_eq_fault_iff]
  constructor
  · rintro ⟨r, rest, i, hreq, hdec, hf⟩
    obtain ⟨rfl, c, b, x, rfl, hc, hx⟩ := exec_eq_fault_iff.mp hf
    exact ⟨rfl, c, b, rest, x, eq_encode_of_decode hdec ▸ hreq, hc, hx⟩
  · rintro ⟨rfl, c, b, rest, x, hreq, hc, hx⟩
    have hdec : decode (encode (.frameDecodeByte c b)) = .op (.frameDecodeByte c b) :=
      (Laws.EncodesToItself.frameDecodeByte c b).2
    exact ⟨_, rest, _, hreq, hdec, exec_eq_fault_iff.mpr ⟨rfl, c, b, x, rfl, hc, hx⟩⟩

/-- Settles O26: a reachable state keeps the invariant, and a fault needs a context that breaks R33 (O27). -/
theorem noRunReachesAFault : Obligations.NoRunReachesAFault := by
  unfold Obligations.NoRunReachesAFault
  intro s hs
  have hr33 := hs.inv.r33
  refine ⟨hr33, fun f hf => ?_⟩
  obtain ⟨-, c, b, rest, x, -, hc, hx⟩ := (stepFaultsExactlyOnABrokenContext s f).mp hf
  exact hx (hr33 x (List.mem_of_getElem? hc))

/-- Settles O36: what an operation leaves (`exec_frame`), and what it does in two states that agree at its channel
(`exec_agree`). -/
theorem anOperationTouchesOnlyItsChannel : Obligations.AnOperationTouchesOnlyItsChannel := by
  unfold Obligations.AnOperationTouchesOnlyItsChannel
  refine ⟨fun i s t ht => exec_frame ht, fun i s u hu => ⟨fun t ht => exec_agree hu ht, fun f hf => ?_⟩⟩
  obtain ⟨rfl, c, b, x, rfl, hc, hx⟩ := exec_eq_fault_iff.mp hf
  exact exec_frameDecodeByte_broken ((hu c rfl).symm.trans hc) hx b

/-- Settles O37, operation by operation. -/
theorem operationsWithoutAChannelArePure : Obligations.OperationsWithoutAChannelArePure := by
  unfold Obligations.OperationsWithoutAChannelArePure
  exact fun _ hi => exec_of_channel_eq_none hi

/-- Settles O46: two contexts in SEARCHING are alike, and bytes cannot tell such contexts apart. -/
theorem aSearchingContextIsUnobservable : Obligations.ASearchingContextIsUnobservable := by
  unfold Obligations.ASearchingContextIsUnobservable
  intro s c x y bs hc hx hy hxs hys
  have hxw := (Context.wf_iff_R33 x).mpr hx
  have hyw := (Context.wf_iff_R33 y).mpr hy
  have hcy : (s.ctx.set c y)[c]? = some y := State.context?_setContext s c x hc y
  obtain ⟨hresp, hev⟩ := arms_alike (.searching hxs hys) hxw bs
  exact ⟨_, _, feed_eq hc hxw bs, feed_eq hcy hyw bs, congrArg (s.responses ++ ·) hresp,
    congrArg (s.events ++ ·) hev⟩

/-- Settles O16: the check fails on the channel's context. -/
theorem brokenContextFaults : Obligations.BrokenContextFaults := by
  unfold Obligations.BrokenContextFaults
  exact fun _ _ _ b hc hx => exec_frameDecodeByte_broken hc hx b

/-- Settles O17, decoder state by decoder state. -/
theorem theContextCheckIsR33 : Obligations.TheContextCheckIsR33 := by
  unfold Obligations.TheContextCheckIsR33
  exact Context.wf_iff_R33

/-- Settles O20: the written-out record is `Context.reset`. -/
theorem decoderResetWritesTheResetValues : Obligations.DecoderResetWritesTheResetValues := by
  unfold Obligations.DecoderResetWritesTheResetValues
  exact fun s c hc => exec_frameDecoderReset_legal (List.getElem?_eq_getElem hc)

/-- Settles O23: the contexts are `n` copies of `Context.reset`. -/
theorem powerOnStateHoldsTheResetValues : Obligations.PowerOnStateHoldsTheResetValues := by
  unfold Obligations.PowerOnStateHoldsTheResetValues
  refine ⟨fun n c hc => ?_, fun n => ⟨List.length_replicate, rfl, rfl, rfl⟩, rfl⟩
  exact List.getElem?_replicate_of_lt hc

/-- Settles O25: `Context.reset` keeps R33, and `State.reset` has a channel. -/
theorem theInvariantHoldsAtPowerOn : Obligations.TheInvariantHoldsAtPowerOn := by
  unfold Obligations.TheInvariantHoldsAtPowerOn
  exact ⟨fun _ hn => .resetWith hn, .resetWith (by decide)⟩

/-- Settles O57: the codes are read off their definitions. -/
theorem statesAndErrorsHaveTheSpecsCodes : Obligations.StatesAndErrorsHaveTheSpecsCodes := by
  unfold Obligations.StatesAndErrorsHaveTheSpecsCodes
  exact ⟨rfl, rfl, rfl, rfl, rfl, rfl, rfl, rfl⟩

end Sys2Proof.Machine

/-! Memory and order (`20_memory.md`): every request is answered once, in a form of R90's table; requests that do not
name one channel commute (R60); a decoder reset is idempotent (R53). -/

namespace Sys2Proof.Machine

section
variable {s t u v w : State} {c : Nat} {x : Context} {a : ArmResult} {i j : Instr} {r : Request} {rest : List Request}
  {f : Format} {d : Decoded} {resp : Response}

/-! ### A request that can be sent -/

/-- R72: a record of its command byte's format carries an operation. -/
theorem decode_of_inFormat (hf : commandFormat r.cmd = some f) (hops : r.operands.inFormat f = true) :
    ∃ i, decode r = .op i := by
  obtain ⟨cmd, ops⟩ := r
  unfold commandFormat at hf
  split at hf <;> cases hf
  all_goals
    next hcmd =>
      cases ops <;> cases hops
      simp [decode, commandFormat, hcmd]

/-- R72, R75: what the decoder finds in a request that can be sent. -/
theorem decode_of_wf (hr : r.wf = true) : (∃ i, decode r = .op i) ∨ decode r = .reserved r.cmd := by
  unfold Request.wf at hr
  cases hf : commandFormat r.cmd with
  | none => exact .inr (by simp only [decode, hf])
  | some f =>
    rw [hf] at hr
    exact .inl (decode_of_inFormat hf hr)

/-! ### The responses of R90's table -/

/-- R81: the model's wire bytes of a frame are the ones the statements write out. -/
theorem frameBytes_eq_frameWire (f : Frame) : frameBytes f = Spec.frameWire f := by
  rw [frameBytes, toBE16_eq_beBytes, Spec.frameWire]

theorem mayAnswer_frameEncode (payload : Option ByteSeq) (n : Nat) :
    Spec.mayAnswer (.op (.frameEncode payload n)) (frameEncode payload n) := by
  cases payload with
  | none => exact .inr rfl
  | some data =>
    unfold frameEncode
    dsimp only
    split_ifs
    · exact .inr rfl
    · exact .inr rfl
    · exact .inr rfl
    · exact .inl ⟨_, congrArg (Response.encoded _) (frameBytes_eq_frameWire _)⟩

theorem searchingArm_response (x : Context) (b : Byte) : (searchingArm x b).response = .incomplete := by
  unfold searchingArm
  split <;> rfl

theorem readLenArm_response (x : Context) (b : Byte) : (readLenArm x b).response = .incomplete := by
  unfold readLenArm
  split <;> rfl

theorem readPayloadArm_response (x : Context) (b : Byte) : (readPayloadArm x b).response = .incomplete := by
  unfold readPayloadArm
  dsimp only
  split <;> rfl

theorem verifyLowArm_response (x : Context) (b : Byte) :
    (verifyLowArm x b).response = .frameAccepted x.payload ∨ (verifyLowArm x b).response = .frameRejected := by
  unfold verifyLowArm
  dsimp only
  split
  · exact .inl rfl
  · exact .inr rfl

/-- R148: a frame is accepted or rejected in VERIFY alone, where R33 bounds the payload's length. -/
theorem mayAnswer_decoderArm (hw : x.wf = true) (c : Nat) (b : Byte) :
    Spec.mayAnswer (.op (.frameDecodeByte c b)) (decoderArm x b).response := by
  cases hx : x.state with
  | searching => exact .inl (decoderArm_searching hx ▸ searchingArm_response x b)
  | readLen => exact .inl (decoderArm_readLen hx ▸ readLenArm_response x b)
  | readPayload => exact .inl (decoderArm_readPayload hx ▸ readPayloadArm_response x b)
  | verify =>
    obtain ⟨-, h1, h64, -, -⟩ := (Context.wf_verify hx).mp hw
    have hlen : x.payload.length = x.expLen.toNat := Context.payload_length h64
    obtain hi | hi : x.crcIdx = 0 ∨ x.crcIdx = 1 := BitVec.eq_zero_or_eq_one x.crcIdx
    · exact .inl (decoderArm_verifyHigh hx hi ▸ rfl)
    · rw [decoderArm_verifyLow hx hi]
      obtain hacc | hrej := verifyLowArm_response x b
      · exact .inr (.inl ⟨x.payload, hacc, by omega, by omega⟩)
      · exact .inr (.inr (.inl hrej))

theorem mayAnswer_spWrap (sourceId : U16) (userData : Option ByteSeq) (n : Nat) (nowMs : U64) :
    Spec.mayAnswer (.op (.spWrap sourceId userData n nowMs)) (spWrap sourceId userData n nowMs) := by
  cases userData with
  | none => exact .inr rfl
  | some data =>
    unfold spWrap
    dsimp only
    split_ifs with hshort
    · exact .inr rfl
    · exact .inr rfl
    · have hlen : (memRead data 0 n).length = n := memRead_length (by omega)
      exact .inl ⟨_, rfl, by rw [packetBytes_length, hlen]⟩

/-- R187: an APID has 11 bits. -/
theorem spGetSourceId_le (buffer : Option ByteSeq) : (spGetSourceId buffer).toNat ≤ 0x7FF := by
  cases buffer with
  | none => exact Nat.zero_le _
  | some w =>
    by_cases hw : w.length < 2
    · rw [spGetSourceId_short hw]
      exact Nat.zero_le _
    · have hlt := (idApid (fieldAt w 0)).isLt
      rw [spGetSourceId_some (by omega), BitVec.toNat_setWidth]
      omega

theorem mayAnswer_spUnpackHeader (buffer : Option ByteSeq) :
    Spec.mayAnswer (.op (.spUnpackHeader buffer)) (spUnpackHeader buffer) := by
  cases buffer with
  | none => exact .inr rfl
  | some w =>
    by_cases hw : w.length < 6
    · exact .inr (spUnpackHeader_short hw)
    · exact .inl ⟨_, spUnpackHeader_some (by omega)⟩

/-! ### One response to each request -/

/-- The outcome is a next state with one more response than `s`, of a form R90's table gives `d`, and the same requests
pending. -/
def AnswersOnce (d : Decoded) (s : State) (o : Host.Outcome State Fault Refusal) : Prop :=
  ∃ (t : State) (resp : Response) (es : List Event), o = .next t ∧ t.requests = s.requests ∧
    t.responses = s.responses ++ [resp] ∧ t.events = s.events ++ es ∧ Spec.mayAnswer d resp

theorem answersOnce_respond (hresp : Spec.mayAnswer d resp) : AnswersOnce d s (.next (s.respond resp)) :=
  ⟨_, resp, [], rfl, rfl, rfl, (List.append_nil _).symm, hresp⟩

theorem answersOnce_applyArm (ha : Spec.mayAnswer d a.response) : AnswersOnce d s (.next (applyArm s c a)) :=
  ⟨_, a.response, a.events, rfl, rfl, rfl, rfl, ha⟩

theorem answersOnce_frameDecodeByte (hs : ∀ x ∈ s.ctx, Spec.R33 x) (c : Nat) (b : Byte) :
    AnswersOnce (.op (.frameDecodeByte c b)) s (exec (.frameDecodeByte c b) s) := by
  cases hc : s.ctx[c]? with
  | none =>
    rw [exec_frameDecodeByte_badChannel hc]
    exact answersOnce_respond (.inr (.inr (.inr rfl)))
  | some x =>
    have hw : x.wf = true := (Context.wf_iff_R33 x).mpr (hs x (List.mem_of_getElem? hc))
    rw [exec_frameDecodeByte_of_wf hc hw]
    exact answersOnce_applyArm (mayAnswer_decoderArm hw c b)

theorem answersOnce_frameDecoderReset (c : Nat) (s : State) :
    AnswersOnce (.op (.frameDecoderReset c)) s (exec (.frameDecoderReset c) s) := by
  cases hc : s.ctx[c]? with
  | none =>
    rw [exec_frameDecoderReset_badChannel hc]
    exact answersOnce_respond (.inr rfl)
  | some x =>
    rw [exec_frameDecoderReset_legal hc, ← applyArm_quiet]
    exact answersOnce_applyArm (.inl rfl)

/-- R90, operation by operation. -/
theorem exec_answersOnce (hs : ∀ x ∈ s.ctx, Spec.R33 x) (i : Instr) : AnswersOnce (.op i) s (exec i s) := by
  cases i with
  | crc16 data => exact answersOnce_respond ⟨_, rfl⟩
  | frameEncode payload n => exact answersOnce_respond (mayAnswer_frameEncode payload n)
  | frameDecodeByte c b => exact answersOnce_frameDecodeByte hs c b
  | frameDecoderReset c => exact answersOnce_frameDecoderReset c s
  | spWrap sourceId userData n nowMs => exact answersOnce_respond (mayAnswer_spWrap sourceId userData n nowMs)
  | spGetSourceId buffer => exact answersOnce_respond ⟨_, rfl, spGetSourceId_le buffer⟩
  | spHasSecondaryHeader buffer => exact answersOnce_respond ⟨_, rfl⟩
  | spGetTimestamp buffer => exact answersOnce_respond ⟨_, rfl⟩
  | spUnpackHeader buffer => exact answersOnce_respond (mayAnswer_spUnpackHeader buffer)

/-- R60, R90: a step answers the oldest request, and leaves the others pending. -/
theorem step_answersOnce (hreq : s.requests = r :: rest) (hr : r.wf = true) (hs : ∀ x ∈ s.ctx, Spec.R33 x) :
    AnswersOnce (decode r) { s with requests := rest } (step s) := by
  rw [step_of_requests hreq]
  obtain ⟨i, hdec⟩ | hdec := decode_of_wf hr <;> rw [hdec]
  · exact exec_answersOnce (s := { s with requests := rest }) hs i
  · exact answersOnce_respond rfl

/-! ### Operations on different channels -/

/-- The two operations name no channel in common. -/
def NoSharedChannel (i j : Instr) : Prop := ∀ c, Spec.channel i = some c → Spec.channel j ≠ some c

theorem NoSharedChannel.symm (h : NoSharedChannel i j) : NoSharedChannel j i := fun c hj hi => h c hi hj

/-- The three ways in which a statement says so. -/
theorem noSharedChannel_of_or
    (h : Spec.channel i = none ∨ Spec.channel j = none ∨ Spec.channel i ≠ Spec.channel j) : NoSharedChannel i j := by
  intro c hi hj
  obtain h | h | h := h
  · cases h.symm.trans hi
  · cases h.symm.trans hj
  · exact h (hi.trans hj.symm)

/-- R28: an operation leaves the channel of another that shares none with it. -/
theorem agreeAtChannel_of_exec (hij : NoSharedChannel i j) (ht : exec i s = .next t) : AgreeAtChannel j t s := by
  obtain ⟨-, -, hframe⟩ := exec_frame ht
  exact fun c hj => hframe c fun hi => hij c hi hj

theorem AgreeAtChannel.symm (h : AgreeAtChannel i s u) : AgreeAtChannel i u s := fun c hi => (h c hi).symm

/-- R60: two orders of operations that share no channel leave the same contexts, where each operation leaves the same
at its channel in both. -/
theorem ctx_eq_of_exec_comm (hij : NoSharedChannel i j) (hit : exec i s = .next t) (hju : exec j t = .next u)
    (hjv : exec j s = .next v) (hiw : exec i v = .next w) (hi : AgreeAtChannel i t w) (hj : AgreeAtChannel j u v) :
    w.ctx = u.ctx := by
  obtain ⟨-, -, hts⟩ := exec_frame hit
  obtain ⟨-, -, hut⟩ := exec_frame hju
  obtain ⟨-, -, hvs⟩ := exec_frame hjv
  obtain ⟨-, -, hwv⟩ := exec_frame hiw
  apply List.ext_getElem?
  intro d
  by_cases hid : Spec.channel i = some d
  · exact (hi d hid).symm.trans (hut d (hij d hid)).symm
  · by_cases hjd : Spec.channel j = some d
    · exact (hwv d hid).trans (hj d hjd).symm
    · calc
        w.ctx[d]? = v.ctx[d]? := hwv d hid
        _ = s.ctx[d]? := hvs d hjd
        _ = t.ctx[d]? := (hts d hid).symm
        _ = u.ctx[d]? := (hut d hjd).symm

end

/-! ### The statements -/

/-- Settles O29: the request decodes to an operation or to a reserved byte, and each of the two answers once. -/
theorem everyRequestGetsExactlyOneResponse : Obligations.EveryRequestGetsExactlyOneResponse := by
  unfold Obligations.EveryRequestGetsExactlyOneResponse
  exact fun _ _ _ hreq hr hs => step_answersOnce hreq hr hs

/-- Settles O40: each operation finds its channel as in the other order, so it does the same there (`exec_agree`). -/
theorem requestsOnDifferentChannelsCommute : Obligations.RequestsOnDifferentChannelsCommute := by
  unfold Obligations.RequestsOnDifferentChannelsCommute
  intro i j s t u h hit hju
  have hij := noSharedChannel_of_or h
  obtain ⟨v, rj, ej, hjv, hur, hvr, hue, hve, hj⟩ := exec_agree (agreeAtChannel_of_exec hij hit) hju
  obtain ⟨w, ri, ei, hiw, htr, hwr, hte, hwe, hi⟩ := exec_agree (agreeAtChannel_of_exec hij.symm hjv).symm hit
  exact ⟨v, w, ri, rj, ei, ej, hjv, hiw, ctx_eq_of_exec_comm hij hit hju hjv hiw hi hj,
    htr, hur, hvr, hwr, hte, hue, hve, hwe⟩

/-- Settles O21: the second reset writes the values the first one wrote, or both turn a bad channel away. -/
theorem decoderResetIsIdempotent : Obligations.DecoderResetIsIdempotent := by
  unfold Obligations.DecoderResetIsIdempotent
  intro s c
  cases hc : s.ctx[c]? with
  | none => exact ⟨_, _, exec_frameDecoderReset_badChannel hc, exec_frameDecoderReset_badChannel hc, rfl, rfl⟩
  | some x =>
    have hreset : (s.ctx.set c Context.reset)[c]? = some Context.reset :=
      State.context?_setContext s c x hc Context.reset
    exact ⟨_, _, exec_frameDecoderReset_legal hc, exec_frameDecoderReset_legal hreset,
      List.set_set .., rfl⟩

end Sys2Proof.Machine

/-! Requests and wire images (`30_encoding.md`): what the decoder finds in every request, which requests a step refuses,
and the bytes of a frame and of a space packet in the numbers of the statements. -/

namespace Sys2Proof.Machine

section
variable {s : State} {c : Nat} {x : Context} {b : Byte} {i : Instr} {r : Request} {rest : List Request} {cmd : Byte}

/-! ### What the decoder finds -/

/-- R71, R72: the request `encode` builds can be sent, and the decoder reads the operation back. -/
theorem encodesToItself : ∀ i : Instr, Laws.EncodesToItself.Statement i
  | .crc16 data => Laws.EncodesToItself.crc16 data
  | .frameEncode payload n => Laws.EncodesToItself.frameEncode payload n
  | .frameDecodeByte c b => Laws.EncodesToItself.frameDecodeByte c b
  | .frameDecoderReset c => Laws.EncodesToItself.frameDecoderReset c
  | .spWrap sourceId userData n nowMs => Laws.EncodesToItself.spWrap sourceId userData n nowMs
  | .spGetSourceId buffer => Laws.EncodesToItself.spGetSourceId buffer
  | .spHasSecondaryHeader buffer => Laws.EncodesToItself.spHasSecondaryHeader buffer
  | .spGetTimestamp buffer => Laws.EncodesToItself.spGetTimestamp buffer
  | .spUnpackHeader buffer => Laws.EncodesToItself.spUnpackHeader buffer

theorem encode_wf (i : Instr) : (encode i).wf = true := (encodesToItself i).1

theorem decode_encode (i : Instr) : decode (encode i) = .op i := (encodesToItself i).2

/-- R75: the bytes outside R71's table have no format. -/
theorem commandFormat_eq_none_iff : commandFormat cmd = none ↔ cmd.toNat = 0 ∨ 10 ≤ cmd.toNat := by
  unfold commandFormat
  split
  case h_10 => grind
  all_goals
    next hcmd => simp [hcmd]

/-- R75: no operand of a reserved command byte is read. -/
theorem decode_of_commandFormat_eq_none (h : commandFormat r.cmd = none) : decode r = .reserved r.cmd := by
  simp only [decode, h]

theorem wf_of_commandFormat_eq_none (h : commandFormat r.cmd = none) : r.wf = true := by
  simp only [Request.wf, h]

/-- The three things the decoder can find, each about the request's own command byte. -/
theorem decode_cases (r : Request) :
    (∃ i, decode r = .op i) ∨ (commandFormat r.cmd = none ∧ decode r = .reserved r.cmd) ∨
      decode r = .badRecord r.cmd := by
  cases hf : commandFormat r.cmd with
  | none => exact .inr (.inl ⟨rfl, decode_of_commandFormat_eq_none hf⟩)
  | some f =>
    simp only [decode, hf]
    split
    case h_10 => exact .inr (.inr rfl)
    all_goals exact .inl ⟨_, rfl⟩

/-- R72: the decoder finds a bad record exactly in a request that cannot be sent. -/
theorem decode_eq_badRecord_iff : decode r = .badRecord cmd ↔ r.wf = false ∧ cmd = r.cmd := by
  constructor
  · intro hbad
    have hw : ¬ r.wf = true := by
      intro hw
      obtain ⟨i, hop⟩ | hres := decode_of_wf hw
      · cases hop.symm.trans hbad
      · cases hres.symm.trans hbad
    obtain ⟨i, hop⟩ | ⟨-, hres⟩ | hown := decode_cases r
    · cases hop.symm.trans hbad
    · cases hres.symm.trans hbad
    · cases hown.symm.trans hbad
      exact ⟨Bool.eq_false_iff.mpr hw, rfl⟩
  · rintro ⟨hw, rfl⟩
    obtain ⟨i, hop⟩ | ⟨hnone, -⟩ | hbad := decode_cases r
    · rw [eq_encode_of_decode hop, encode_wf] at hw
      cases hw
    · rw [wf_of_commandFormat_eq_none hnone] at hw
      cases hw
    · exact hbad

/-! ### What a step turns away -/

/-- No operation is refused. -/
theorem exec_ne_refused (i : Instr) (s : State) (q : Refusal) : exec i s ≠ .refused q := by
  intro hq
  cases exec_effect i s with
  | answers r run => cases (run s (.refl i s)).symm.trans hq
  | writes c x a hi hc hw run => cases (run s hc).symm.trans hq
  | faults c b x hi hc hx =>
    subst hi
    cases (exec_frameDecodeByte_broken hc hx b).symm.trans hq

/-- A step refuses what the decoder calls a bad record, and nothing else. -/
theorem step_eq_refused_iff {q : Refusal} (hreq : s.requests = r :: rest) :
    step s = .refused q ↔ ∃ cmd, decode r = .badRecord cmd ∧ q = .operandFormat cmd := by
  rw [step_of_requests hreq]
  cases decode r with
  | op i => simp [exec_ne_refused]
  | reserved cmd => simp
  | badRecord cmd => simp [eq_comm]

/-! ### The CRC in numbers -/

theorem crcRoundNat_toNat (crc : U16) : Spec.crcRoundNat crc.toNat = (crcRound crc).toNat := by
  rw [crcRound_toNat, Spec.crcRoundNat]
  exact if_congr (by omega) rfl rfl

theorem iterate_crcRoundNat_toNat (n : Nat) (crc : U16) :
    Nat.iterate Spec.crcRoundNat n crc.toNat = (crcRounds n crc).toNat := by
  induction n generalizing crc with
  | zero => rfl
  | succ n ih => rw [Function.iterate_succ_apply, crcRoundNat_toNat, ih, crcRounds]

/-- R14: a byte in the top half of a 16-bit word. -/
theorem zext16_shiftLeft_toNat (b : Byte) : (zext16 b <<< 8).toNat = b.toNat * 256 := by
  have hb := b.isLt
  rw [BitVec.toNat_shiftLeft, zext16, BitVec.toNat_setWidth, Nat.shiftLeft_eq]
  omega

theorem crcByteNat_toNat (crc : U16) (b : Byte) : Spec.crcByteNat crc.toNat b = (crcUpdate crc b).toNat := by
  rw [Spec.crcByteNat, crcUpdate, ← zext16_shiftLeft_toNat, ← BitVec.toNat_xor, iterate_crcRoundNat_toNat]

theorem foldl_crcByteNat_toNat (data : ByteSeq) (crc : U16) :
    data.foldl Spec.crcByteNat crc.toNat = (data.foldl crcUpdate crc).toNat := by
  induction data generalizing crc with
  | nil => rfl
  | cons b data ih => rw [List.foldl_cons, crcByteNat_toNat, ih, List.foldl_cons]

/-- R102: the model's CRC is the fold over naturals. -/
theorem crc16_toNat (data : ByteSeq) : (crc16 data).toNat = Spec.crcNat data :=
  (foldl_crcByteNat_toNat data Params.crcInit).symm

/-! ### The wire images in numbers -/

@[simp] theorem beBytes_length (k v : Nat) : (Spec.beBytes k v).length = k := by
  rw [Spec.beBytes, List.length_map, List.length_range]

/-- R182: the fixed bits lie above the 11 bits of the APID. -/
theorem spIdentifier_toNat (sourceId : U16) : (spIdentifier sourceId).toNat = 0x1800 + sourceId.toNat % 2048 := by
  have hmask : sourceId.toNat &&& 0x07FF = sourceId.toNat % 2048 := Nat.and_two_pow_sub_one_eq_mod _ 11
  have hlow : sourceId.toNat % 2048 < 2 ^ 11 := Nat.mod_lt _ (by decide)
  have hor := Nat.shiftLeft_add_eq_or_of_lt hlow 3
  calc (spIdentifier sourceId).toNat
      = 3 <<< 11 ||| (sourceId.toNat &&& 0x07FF) := by
        rw [spIdentifier, BitVec.toNat_or, BitVec.toNat_and]; rfl
    _ = 0x1800 + sourceId.toNat % 2048 := by rw [hmask, ← hor]; rfl

/-- R183: the length field does not wrap within SP_MAX_USER_DATA. -/
theorem spLengthField_toNat {n : Nat} (hn : n ≤ 65528) : (spLengthField n).toNat = 7 + n := by
  have hlen : Params.spSecondaryLen + n - 1 = 7 + n := by simp only [Params.spSecondaryLen]; omega
  rw [spLengthField, hlen, BitVec.toNat_ofNat, Nat.mod_eq_of_lt (by omega)]

/-- R82: the model's packet is the one the statements write out. -/
theorem packetBytes_eq_packetWire {data : ByteSeq} (hmax : data.length ≤ 65528) (sourceId : U16) (nowMs : U64) :
    packetBytes sourceId data nowMs = Spec.packetWire sourceId data nowMs := by
  rw [packetBytes, toBE16_eq_beBytes, toBE16_eq_beBytes, toBE16_eq_beBytes, toBE64_eq_beBytes, spIdentifier_toNat,
    spLengthField_toNat hmax]
  rfl

/-! ### The second CRC byte -/

/-- R145, R147: what the last byte of a frame writes, answers and emits, by the CRC in numbers. -/
theorem applyArm_verifyLowArm (s : State) (c : Nat) (x : Context) (b : Byte) :
    applyArm s c (verifyLowArm x b) =
      if Spec.crcNat ([x.syncLatch, x.expLen] ++ x.payload) = (x.rxCrc ||| zext16 b).toNat then
        { s with
          ctx := s.ctx.set c { x with rxCrc := x.rxCrc ||| zext16 b, state := .searching }
          responses := s.responses ++ [.frameAccepted x.payload]
          events := s.events ++ [.deliver x.payload x.expLen.toNat] }
      else
        { s with
          ctx := s.ctx.set c { x with rxCrc := x.rxCrc ||| zext16 b, state := .searching }
          responses := s.responses ++ [.frameRejected] } := by
  have hmatch : Spec.crcNat ([x.syncLatch, x.expLen] ++ x.payload) = (x.rxCrc ||| zext16 b).toNat ↔
      crc16 (validationRange x.syncLatch x.expLen x.payload) = x.rxCrc ||| zext16 b := by
    rw [← crc16_toNat, BitVec.toNat_inj, validationRange]
  split
  next hcrc => rw [verifyLowArm_match (hmatch.mp hcrc)]; rfl
  next hcrc => rw [verifyLowArm_mismatch (mt hmatch.mpr hcrc), applyArm_quiet]; rfl

end

/-! ### The statements -/

/-- Settles O33: `decode_encode`, and `eq_encode_of_decode` for the other direction. -/
theorem decodeAndEncodeAgree : Obligations.DecodeAndEncodeAgree := by
  unfold Obligations.DecodeAndEncodeAgree
  intro r i
  constructor
  · exact eq_encode_of_decode
  · rintro rfl
    exact decode_encode i

/-- Settles O7: the encoder's frame, with its CRC and its wire bytes in numbers. -/
theorem frameEncodeBuildsTheFrame : Obligations.FrameEncodeBuildsTheFrame := by
  unfold Obligations.FrameEncodeBuildsTheFrame
  intro data n s h1 h64 hlen
  refine ⟨crc16 ([0xAA, BitVec.ofNat 8 n] ++ data.take n), crc16_toNat _, ?_, ?_⟩
  · simp only [List.length_append, List.length_cons, List.length_nil, List.length_take, beBytes_length]
    omega
  · rw [exec_frameEncode, frameEncode_some h1 h64 hlen, frameBytes_eq_frameWire]
    rfl

/-- Settles O28: a step refuses what the decoder calls a bad record, which is a request that cannot be sent. -/
theorem stepRefusesExactlyUnsendableRequests : Obligations.StepRefusesExactlyUnsendableRequests := by
  unfold Obligations.StepRefusesExactlyUnsendableRequests
  intro s q
  cases hreq : s.requests with
  | nil => simp [step_of_no_request hreq]
  | cons r rest => simp [step_eq_refused_iff hreq, decode_eq_badRecord_iff, and_assoc]

/-- Settles O34: the format of the command byte, then whether the record is of it. -/
theorem decodingIsTotalOnTheCommandByte : Obligations.DecodingIsTotalOnTheCommandByte := by
  unfold Obligations.DecodingIsTotalOnTheCommandByte
  intro r
  have hreserved : commandFormat r.cmd = none ↔ r.cmd.toNat = 0 ∨ 10 ≤ r.cmd.toNat := commandFormat_eq_none_iff
  split_ifs with hcmd hw
  · cases hf : commandFormat r.cmd with
    | none =>
      have hbyte := hreserved.mp hf
      omega
    | some f => exact decode_of_inFormat hf (by simpa only [Request.wf, hf] using hw)
  · exact decode_eq_badRecord_iff.mpr ⟨Bool.eq_false_iff.mpr hw, rfl⟩
  · exact decode_of_commandFormat_eq_none (hreserved.mpr (by omega))

/-- Settles O48: SP_WRAP's packet around the first `n` bytes, in numbers. -/
theorem spWrapBuildsThePacket : Obligations.SpWrapBuildsThePacket := by
  unfold Obligations.SpWrapBuildsThePacket
  intro sourceId data n nowMs s hlen hmax
  have htake : (data.take n).length = n := List.length_take_of_le hlen
  have hwire := packetBytes_eq_packetWire (htake.le.trans hmax) sourceId nowMs
  rw [← hwire]
  refine ⟨by rw [packetBytes_length, htake], ?_⟩
  rw [exec_spWrap, spWrap_some hlen hmax]
  rfl

/-- Settles O14: in VERIFY with sub-index 1 the byte runs `verifyLowArm`. -/
theorem verifyAcceptsExactlyOnACrcMatch : Obligations.VerifyAcceptsExactlyOnACrcMatch := by
  unfold Obligations.VerifyAcceptsExactlyOnACrcMatch
  intro s c x b hc hx hs hi
  rw [exec_frameDecodeByte_of_wf hc ((Context.wf_iff_R33 x).mpr hx), decoderArm_verifyLow hs hi]
  exact congrArg _ (applyArm_verifyLowArm s c x b)

/-- Settles O15: there is no context at such a channel. -/
theorem badChannelAnswersInvalidArgument : Obligations.BadChannelAnswersInvalidArgument := by
  unfold Obligations.BadChannelAnswersInvalidArgument
  intro s c b hle
  have hc : s.ctx[c]? = none := List.getElem?_eq_none hle
  exact ⟨exec_frameDecodeByte_badChannel hc b, exec_frameDecoderReset_badChannel hc⟩

/-- Settles O31: the decoder reads no operand of such a byte. -/
theorem reservedCommandAnswersIllegalOperation : Obligations.ReservedCommandAnswersIllegalOperation := by
  unfold Obligations.ReservedCommandAnswersIllegalOperation
  intro s cmd ops rest hreq hcmd
  have hdec : decode ⟨cmd, ops⟩ = .reserved cmd :=
    decode_of_commandFormat_eq_none (commandFormat_eq_none_iff.mpr hcmd)
  rw [step_of_requests hreq, hdec]
  rfl

/-- Settles O35: nine requests that `encode` builds, and a reserved byte on each side of the table. -/
theorem commandBytesDecodeAsTheTableSays : Obligations.CommandBytesDecodeAsTheTableSays := by
  unfold Obligations.CommandBytesDecodeAsTheTableSays
  have hreserved : ∀ cmd : Byte, cmd.toNat = 0 ∨ 10 ≤ cmd.toNat → decode ⟨cmd, .absent⟩ = .reserved cmd :=
    fun _ hcmd => decode_of_commandFormat_eq_none (commandFormat_eq_none_iff.mpr hcmd)
  exact ⟨decode_encode (.crc16 _), decode_encode (.frameEncode _ _), decode_encode (.frameDecodeByte _ _),
    decode_encode (.frameDecoderReset _), decode_encode (.spWrap _ _ _ _), decode_encode (.spGetSourceId _),
    decode_encode (.spHasSecondaryHeader _), decode_encode (.spGetTimestamp _), decode_encode (.spUnpackHeader _),
    hreserved 0x00 (by decide), hreserved 0x0A (by decide)⟩

end Sys2Proof.Machine

/-! The CRC engine (`40_crc16.md`): the two forms of R103, the residue law of R105, the error detection of R106 and the
reference vectors of R108. -/

namespace Sys2Proof.Machine

section
variable {a b : U16} {x y : Byte} {m t : ByteSeq}

/-! ### The CRC16 operation -/

theorem exec_crc16 (data : ByteSeq) (s : State) :
    exec (.crc16 data) s = .next { s with responses := s.responses ++ [.crc (crc16 data)] } := rfl

/-! ### The bit-serial form -/

/-- Rounds are counted from either end. -/
theorem crcRounds_succ_last (n : Nat) (a : U16) : crcRounds (n + 1) a = crcRound (crcRounds n a) := by
  induction n generalizing a with
  | zero => rfl
  | succ n ih => rw [crcRounds, ih, crcRounds]

/-- A round on a word XORed into the register is R103's serial step on the word's top bit, with the rest of the word
XORed in afterwards. -/
theorem crcRound_xor_eq_serialStep (a w : U16) :
    crcRound (a ^^^ w) = Spec.crcSerialStep a (w.getLsbD 15) ^^^ (w <<< 1) := by
  rw [crcRound, Spec.crcSerialStep, BitVec.getLsbD_xor, BitVec.shiftLeft_xor_distrib]
  split
  · rw [BitVec.xor_assoc, BitVec.xor_assoc, BitVec.xor_comm (w <<< 1)]; rfl
  · rfl

/-- `n` rounds are `n` serial steps on the top `n` bits of the word, most significant first. -/
theorem crcRounds_xor_eq_serialSteps (n : Nat) (a w : U16) :
    crcRounds n (a ^^^ w) =
      (List.range n).foldl (fun r i => Spec.crcSerialStep r ((w <<< i).getLsbD 15)) a ^^^ (w <<< n) := by
  induction n with
  | zero => simp [crcRounds]
  | succ n ih =>
    rw [crcRounds_succ_last, ih, crcRound_xor_eq_serialStep, List.range_succ, List.foldl_concat, BitVec.shiftLeft_add]

/-- A byte in the top half shows its bits at bit 15 from bit 7 down. -/
theorem zext16_shiftLeft_getLsbD_fifteen {i : Nat} (hi : i < 8) (x : Byte) :
    ((zext16 x <<< 8) <<< i).getLsbD 15 = x.getLsbD (7 - i) := by
  have hbit : 15 - (8 + i) = 7 - i := by omega
  have hin : ¬ 15 < 8 + i := by omega
  have hlt : 7 - i < 16 := by omega
  rw [← BitVec.shiftLeft_add, BitVec.getLsbD_shiftLeft, zext16, BitVec.getLsbD_setWidth, hbit]
  simp [hin, hlt]

/-- Two shifts by a byte leave nothing of a 16-bit word. -/
theorem shiftLeft_eight_eight (a : U16) : (a <<< 8) <<< 8 = 0#16 := by
  rw [← BitVec.shiftLeft_add]
  exact BitVec.shiftLeft_eq_zero le_rfl

/-- R103's first form. -/
theorem crcUpdate_eq_crcSerial (a : U16) (x : Byte) : crcUpdate a x = Spec.crcSerial a x := by
  have hbits : [7, 6, 5, 4, 3, 2, 1, 0] = (List.range 8).map (7 - ·) := rfl
  rw [crcUpdate, crcRounds_xor_eq_serialSteps, shiftLeft_eight_eight, BitVec.xor_zero, Spec.crcSerial, hbits,
    List.foldl_map]
  refine List.foldl_ext _ _ _ fun r i hi => ?_
  rw [zext16_shiftLeft_getLsbD_fifteen (List.mem_range.mp hi)]

/-! ### The table form -/

/-- Rounds that shift out no 1 only shift. -/
theorem crcRounds_eq_shiftLeft {n : Nat} (h : a.toNat * 2 ^ n < 65536) : crcRounds n a = a <<< n := by
  induction n generalizing a with
  | zero => simp [crcRounds]
  | succ n ih =>
    have hpow : a.toNat * 2 ^ (n + 1) = 2 * a.toNat * 2 ^ n := by ring
    have hle : 2 * a.toNat ≤ 2 * a.toNat * 2 ^ n := Nat.le_mul_of_pos_right _ (by positivity)
    have hround : crcRound a = a <<< 1 := by
      rw [crcRound, getLsbD_fifteen, if_neg (by rw [decide_eq_true_eq]; omega)]
    have hdouble : (a <<< 1).toNat = 2 * a.toNat := by
      rw [← hround, crcRound_toNat, if_neg (by omega)]
    rw [crcRounds, hround, ih (by rw [hdouble]; omega), ← BitVec.shiftLeft_add, Nat.add_comm]

/-- A register is its low half with its high half XORed into the top 8 bits. -/
theorem zext16_low_xor_high (a : U16) :
    zext16 (a.extractLsb' 0 8) ^^^ (zext16 (a.extractLsb' 8 8) <<< 8) = a := by
  apply BitVec.eq_of_getLsbD_eq
  intro i hi
  by_cases h : i < 8
  · simp [zext16, h, hi]
  · have hadd : 8 + (i - 8) = i := by omega
    have hlt : i - 8 < 8 := by omega
    simp [zext16, h, hi, hadd, hlt]

/-- The eight rounds only shift the low half of the register (R105's argument). -/
theorem crcRounds_low (a : U16) : crcRounds 8 (zext16 (a.extractLsb' 0 8)) = a <<< 8 := by
  have hlow : (zext16 (a.extractLsb' 0 8)).toNat < 256 := by
    rw [zext16, BitVec.toNat_setWidth]
    have := (a.extractLsb' 0 8).isLt
    omega
  rw [crcRounds_eq_shiftLeft (by omega)]
  conv_rhs => rw [← zext16_low_xor_high a, BitVec.shiftLeft_xor_distrib, shiftLeft_eight_eight, BitVec.xor_zero]

/-- R103's second form: the low half is shifted, the high half and the byte go through the table. -/
theorem crcUpdate_eq_table (a : U16) (x : Byte) :
    crcUpdate a x = (a <<< 8) ^^^ Spec.crcTable (a.extractLsb' 8 8 ^^^ x) := by
  have hsplit : a ^^^ (zext16 x <<< 8) =
      zext16 (a.extractLsb' 0 8) ^^^ (zext16 (a.extractLsb' 8 8 ^^^ x) <<< 8) := by
    conv_lhs => rw [← zext16_low_xor_high a]
    rw [BitVec.xor_assoc, ← BitVec.shiftLeft_xor_distrib, zext16, zext16, zext16, zext16, BitVec.setWidth_xor]
  have hentry : ∀ i : Byte, Spec.crcTable i = crcRounds 8 (zext16 i <<< 8) :=
    fun _ => congrArg (crcRounds 8) BitVec.zero_xor
  rw [crcUpdate, hsplit, crcRounds_xor, crcRounds_low, hentry]

/-! ### The residue law -/

/-- The byte that cancels the register's high half shifts the low half up and leaves nothing else. -/
theorem crcUpdate_highByte (a : U16) : crcUpdate a (a.extractLsb' 8 8) = a <<< 8 := by
  have hzero : Spec.crcTable 0#8 = 0#16 := by decide
  rw [crcUpdate_eq_table, BitVec.xor_self, hzero, BitVec.xor_zero]

/-- R105: a register into which its own two bytes are folded ends at zero. -/
theorem foldl_crcUpdate_toBE16 (a : U16) : (toBE16 a).foldl crcUpdate a = 0 := by
  have hup : a.extractLsb' 0 8 = (a <<< 8).extractLsb' 8 8 := by
    apply BitVec.eq_of_getLsbD_eq
    intro i hi
    have hlt : 8 + i < 16 := by omega
    rw [BitVec.getLsbD_extractLsb', BitVec.getLsbD_extractLsb', BitVec.getLsbD_shiftLeft]
    simp [hlt]
  rw [toBE16, List.foldl_cons, List.foldl_cons, List.foldl_nil, crcUpdate_highByte, hup, crcUpdate_highByte]
  exact shiftLeft_eight_eight a

/-- R105, the residue law. -/
theorem crc16_append_toBE16 (m : ByteSeq) : crc16 (m ++ toBE16 (crc16 m)) = 0 := by
  rw [crc16_append, foldl_crcUpdate_toBE16]

/-- R105 for a whole frame: its CRC is the CRC of all the bytes before it (R77, R81). -/
theorem crc16_frameBytes (n : Byte) (p : ByteSeq) : crc16 (frameBytes (frameOf n p)) = 0 :=
  crc16_append_toBE16 (validationRange Params.sync n p)

/-- R120, R121: the encoder answers a frame only with legal arguments, and then the frame of R122. -/
theorem frameEncode_eq_encoded {payload : Option ByteSeq} {n : Nat} {f : Frame} {w : ByteSeq}
    (h : frameEncode payload n = .encoded f w) :
    ∃ data, payload = some data ∧ 1 ≤ n ∧ n ≤ 64 ∧ n ≤ data.length ∧
      f = frameOf (BitVec.ofNat 8 n) (data.take n) ∧ w = frameBytes f := by
  cases payload with
  | none => cases h
  | some data =>
    by_cases hlegal : 1 ≤ n ∧ n ≤ 64 ∧ n ≤ data.length
    · obtain ⟨h1, h64, hlen⟩ := hlegal
      rw [frameEncode_some h1 h64 hlen] at h
      cases h
      exact ⟨data, rfl, h1, h64, hlen, rfl, rfl⟩
    · unfold frameEncode at h
      dsimp only [Params.maxPayload, Params.minPayload] at h
      split_ifs at h
      omega

/-! ### Error detection -/

/-- The rounds lose no information. -/
theorem crcRounds_injective (n : Nat) : Function.Injective (crcRounds n) := by
  intro a b h
  have hdiff : crcRounds n (a ^^^ b) = 0 := by rw [crcRounds_xor, h]; exact BitVec.xor_self
  exact BitVec.xor_eq_zero_iff.mp (crcRounds_eq_zero hdiff)

/-- Different registers stay different over the same byte. -/
theorem crcUpdate_left_inj : crcUpdate a x = crcUpdate b x ↔ a = b := by
  rw [crcUpdate, crcUpdate, (crcRounds_injective 8).eq_iff, BitVec.xor_left_inj]

/-- Different bytes make the same register different. -/
theorem crcUpdate_right_inj : crcUpdate a x = crcUpdate a y ↔ x = y := by
  have hshift : zext16 x <<< 8 = zext16 y <<< 8 ↔ x = y := by
    rw [← BitVec.toNat_inj, ← BitVec.toNat_inj, zext16_shiftLeft_toNat, zext16_shiftLeft_toNat]
    omega
  rw [crcUpdate, crcUpdate, (crcRounds_injective 8).eq_iff, BitVec.xor_right_inj, hshift]

/-- Different registers stay different over any common tail. -/
theorem foldl_crcUpdate_inj : t.foldl crcUpdate a = t.foldl crcUpdate b ↔ a = b := by
  induction t generalizing a b with
  | nil => rfl
  | cons z t ih => rw [List.foldl_cons, List.foldl_cons, ih, crcUpdate_left_inj]

/-- Any error within one byte is detected. -/
theorem crc16_append_cons_inj : crc16 (m ++ x :: t) = crc16 (m ++ y :: t) ↔ x = y := by
  rw [crc16_append, crc16_append, List.foldl_cons, List.foldl_cons, foldl_crcUpdate_inj, crcUpdate_right_inj]

/-- A flip changes byte `i` and leaves the bytes on both sides of it. -/
theorem flipBit_eq_append {i : Nat} (hi : i < m.length) (k : Nat) :
    Spec.flipBit m i k = m.take i ++ (m[i] ^^^ BitVec.twoPow 8 k) :: m.drop (i + 1) := by
  rw [Spec.flipBit, List.getD_eq_getElem _ _ hi, List.set_eq_take_append_cons_drop, if_pos hi]

/-- A flipped bit makes another byte. -/
theorem xor_twoPow_ne {k : Nat} (hk : k < 8) (x : Byte) : x ^^^ BitVec.twoPow 8 k ≠ x := by
  intro h
  have hbit := congrArg (BitVec.getLsbD · k) h
  simp [hk] at hbit

/-- R106. -/
theorem crc16_flipBit_ne {i k : Nat} (hi : i < m.length) (hk : k < 8) : crc16 (Spec.flipBit m i k) ≠ crc16 m := by
  have hm : m = m.take i ++ m[i] :: m.drop (i + 1) := by simp
  conv_rhs => rw [hm]
  rw [flipBit_eq_append hi, ne_eq, crc16_append_cons_inj]
  exact xor_twoPow_ne hk _

end

/-! ### The statements -/

/-- Settles O1: the operation answers `crc16`, which is the fold in numbers. -/
theorem crc16AnswersTheFoldOfR102 : Obligations.Crc16AnswersTheFoldOfR102 := by
  unfold Obligations.Crc16AnswersTheFoldOfR102
  intro data s
  exact ⟨crc16 data, crc16_toNat data, exec_crc16 data s⟩

/-- Settles O2: the two forms, and the four entries by evaluation. -/
theorem crcUpdateEqualsItsSerialAndTableForms : Obligations.CrcUpdateEqualsItsSerialAndTableForms := by
  unfold Obligations.CrcUpdateEqualsItsSerialAndTableForms
  exact ⟨fun a x => ⟨crcUpdate_eq_crcSerial a x, crcUpdate_eq_table a x⟩, by decide, by decide, by decide,
    by decide⟩

/-- Settles O3: a frame on the wire is its validation range followed by that range's CRC. -/
theorem crcOfAMessageWithItsCrcIsZero : Obligations.CrcOfAMessageWithItsCrcIsZero := by
  unfold Obligations.CrcOfAMessageWithItsCrcIsZero
  constructor
  · intro m
    rw [← toBE16_eq_beBytes]
    exact crc16_append_toBE16 m
  · intro p s t f w hexec hresp
    rw [exec_frameEncode] at hexec
    cases hexec
    have hanswer : frameEncode (some p) p.length = .encoded f w := by simpa using hresp
    obtain ⟨data, -, -, -, -, rfl, rfl⟩ := frameEncode_eq_encoded hanswer
    exact crc16_frameBytes _ _

/-- Settles O4: the two sequences differ in one byte, and the CRC tells any two such sequences apart. -/
theorem crcDetectsEverySingleBitError : Obligations.CrcDetectsEverySingleBitError := by
  unfold Obligations.CrcDetectsEverySingleBitError
  intro m i k hi hk
  exact crc16_flipBit_ne hi hk

/-- Settles O5: a closed evaluation of `crc16`, one per vector and one per trace of registers. -/
theorem crcReferenceVectors : Obligations.CrcReferenceVectors := by
  unfold Obligations.CrcReferenceVectors
  have hdigits : crc16 [0x31, 0x32, 0x33, 0x34, 0x35, 0x36, 0x37, 0x38, 0x39] = 0x29B1 := by
    decide +kernel
  have hbytes : crc16 [0x01, 0x02, 0x03] = 0xADAD := by decide +kernel
  refine ⟨fun s => ?_, fun s => ?_, by decide, by decide⟩
  · rw [exec_crc16, hdigits]
  · rw [exec_crc16, hbytes]

end Sys2Proof.Machine

/-! The frame encoder (`41_frame_encoder.md`): the argument checks of R121, and what of its operands the encoder reads
(R125). -/

namespace Sys2Proof.Machine

/-! ### The encoder's checks -/

section
variable {payload : Option ByteSeq} {data p q : ByteSeq} {n : Nat}

/-- R121: the complement of `frameEncode_some`. -/
theorem frameEncode_some_illegal (h : ¬(1 ≤ n ∧ n ≤ 64 ∧ n ≤ data.length)) :
    frameEncode (some data) n = .error .invalidArgument := by
  unfold frameEncode
  dsimp only
  split_ifs with hlong hzero hshort
  · rfl
  · rfl
  · rfl
  · exact absurd ⟨Nat.not_lt.mp hzero, Nat.not_lt.mp hlong, Nat.not_lt.mp hshort⟩ h

/-- R121, with D5 and D6: the four bad arguments. -/
theorem frameEncode_badArgument
    (h : payload = none ∨ 64 < n ∨ n = 0 ∨ ∃ data, payload = some data ∧ data.length < n) :
    frameEncode payload n = .error .invalidArgument := by
  cases payload with
  | none => rfl
  | some data =>
    apply frameEncode_some_illegal
    rintro ⟨h1, h64, hlen⟩
    obtain hnone | hlong | hzero | ⟨_, hdata, hshort⟩ := h
    · cases hnone
    · omega
    · omega
    · cases hdata
      omega

/-- R125: the encoder reads no byte past the length. -/
theorem frameEncode_congr (hp : n ≤ p.length) (hq : n ≤ q.length) (htake : p.take n = q.take n) :
    frameEncode (some p) n = frameEncode (some q) n := by
  by_cases hn : 1 ≤ n ∧ n ≤ 64
  · obtain ⟨h1, h64⟩ := hn
    rw [frameEncode_some h1 h64 hp, frameEncode_some h1 h64 hq, htake]
  · rw [frameEncode_some_illegal fun ⟨h1, h64, _⟩ => hn ⟨h1, h64⟩,
      frameEncode_some_illegal fun ⟨h1, h64, _⟩ => hn ⟨h1, h64⟩]

end

/-! ### The statements -/

/-- Settles O8: the operation answers what `frameEncode` gives, and that is the error. -/
theorem frameEncodeAnswersInvalidArgument : Obligations.FrameEncodeAnswersInvalidArgument := by
  unfold Obligations.FrameEncodeAnswersInvalidArgument
  intro payload n s hbad
  rw [exec_frameEncode, frameEncode_badArgument hbad]
  rfl

/-- Settles O9: the common response is `frameEncode`'s, which takes no state. -/
theorem frameEncodeIgnoresBytesPastTheLength : Obligations.FrameEncodeIgnoresBytesPastTheLength := by
  unfold Obligations.FrameEncodeIgnoresBytesPastTheLength
  intro p q n hp hq htake
  refine ⟨frameEncode (some p) n, fun s => ⟨exec_frameEncode _ n s, ?_⟩⟩
  rw [frameEncode_congr hp hq htake]
  exact exec_frameEncode _ n s

end Sys2Proof.Machine

/-! The frame decoder (`42_frame_decoder.md`): what each byte does to a context, which byte ends a frame, noise before a
frame (R152), damaged frames (R153) and the way back to SEARCHING (R151). -/

namespace Sys2Proof.Machine

section
variable {s t : State} {c : Nat} {x y z : Context} {b h l n : Byte} {m bs noise p : ByteSeq} {r : Response}
  {rs : List Response} {es : List Event} {i : Instr}

/-! ### Noise in SEARCHING -/

/-- R141: bytes other than the sync byte leave a context in SEARCHING as it is. -/
theorem quietRun_noise (hs : x.state = .searching) (hnoise : ∀ b ∈ noise, b ≠ 0xAA) : QuietRun x noise x := by
  induction noise with
  | nil => exact ⟨rfl, rfl, rfl⟩
  | cons b noise ih =>
    obtain ⟨hb, hrest⟩ := List.forall_mem_cons.mp hnoise
    have harm := (decoderArm_searching hs).trans (searchingArm_other (x := x) hb)
    exact QuietRun.cons harm (ih hrest)

/-- R141, R142: a sync byte and a malformed length lead back to SEARCHING. -/
theorem quietRun_badLength (hs : x.state = .searching) (hb : b = 0 ∨ 65 ≤ b.toNat) :
    QuietRun x [0xAA, b]
      { x with syncLatch := 0xAA, buf := Vector.replicate 64 0x00, state := .searching } := by
  have hbad : b.toNat < 1 ∨ 64 < b.toNat := by
    obtain rfl | hlong := hb
    · exact .inl (by decide)
    · exact .inr hlong
  have hsync := (decoderArm_searching hs).trans (searchingArm_sync x)
  exact QuietRun.cons hsync (ArmsRun.single ((decoderArm_readLen rfl).trans (readLenArm_malformed hbad)))

/-- R152: either kind of noise ends in SEARCHING. -/
theorem exists_quietRun_noise (hs : x.state = .searching)
    (hnoise : (∀ b ∈ noise, b ≠ 0xAA) ∨ ∃ z : Byte, noise = [0xAA, z] ∧ (z = 0 ∨ 65 ≤ z.toNat)) :
    ∃ y, y.state = .searching ∧ QuietRun x noise y := by
  obtain hnoise | ⟨z, rfl, hz⟩ := hnoise
  · exact ⟨x, hs, quietRun_noise hs hnoise⟩
  · exact ⟨_, rfl, quietRun_badLength hs hz⟩

/-- A quiet run before another only adds to its Incomplete responses. -/
theorem QuietRun.before {k : Nat} (hq : QuietRun x noise y)
    (hr : ArmsRun y bs z (List.replicate k .incomplete ++ rs) es) :
    ArmsRun x (noise ++ bs) z (List.replicate (noise.length + k) .incomplete ++ rs) es := by
  have hrun := ArmsRun.append hq hr
  rwa [← List.append_assoc, List.replicate_append_replicate, List.nil_append] at hrun

/-- R16: writing back the context a channel holds changes nothing. -/
theorem ctx_set_self (hc : s.ctx[c]? = some x) : s.ctx.set c x = s.ctx := by
  obtain ⟨hlt, rfl⟩ := List.getElem?_eq_some_iff.mp hc
  exact List.set_getElem_self hlt

/-! ### A frame whose CRC does not match -/

/-- R145: the last byte of a frame whose received CRC is not the CRC of its validation range. -/
theorem decoderArm_awaitingLowCrc_mismatch (h64 : p.length ≤ 64)
    (hcrc : crc16 (validationRange 0xAA (BitVec.ofNat 8 p.length) p) ≠ be16 h l) :
    decoderArm (Context.awaitingLowCrc p h) l = ⟨Context.afterFrame p h l, .frameRejected, []⟩ := by
  have hpay := Context.awaitingLowCrc_payload (h := h) h64
  rw [decoderArm_verifyLow rfl rfl, verifyLowArm_mismatch (by rw [hpay]; exact hcrc)]
  rfl

/-- R141 to R145: from SEARCHING, a whole frame answers and emits what its last byte does. -/
theorem armsRun_frame_of_lastArm (hs : x.state = .searching) (h1 : 1 ≤ p.length) (h64 : p.length ≤ 64)
    (hlast : decoderArm (Context.awaitingLowCrc p h) l = ⟨y, r, es⟩) :
    ArmsRun x ([0xAA, BitVec.ofNat 8 p.length] ++ p ++ [h] ++ [l]) y
      (List.replicate (p.length + 3) .incomplete ++ [r]) es := by
  have hlen : ([0xAA, BitVec.ofNat 8 p.length] ++ p ++ [h]).length = p.length + 3 := by simp
  rw [← hlen]
  exact ArmsRun.append (quietRun_upToLowCrc hs h1 h64 h) (ArmsRun.single hlast)

/-- R145: FEED of a frame to a channel in SEARCHING, by the received CRC. -/
theorem feed_frame (hc : s.ctx[c]? = some x) (hw : x.wf = true) (hs : x.state = .searching) (h1 : 1 ≤ p.length)
    (h64 : p.length ≤ 64) (h l : Byte) :
    feed c ([0xAA, BitVec.ofNat 8 p.length] ++ p ++ [h, l]) s =
      .next (if crc16 (validationRange 0xAA (BitVec.ofNat 8 p.length) p) = be16 h l then
        { s with
          ctx := s.ctx.set c (Context.afterFrame p h l)
          responses := s.responses ++ List.replicate (p.length + 3) .incomplete ++ [.frameAccepted p]
          events := s.events ++ [.deliver p p.length] }
      else
        { s with
          ctx := s.ctx.set c (Context.afterFrame p h l)
          responses := s.responses ++ List.replicate (p.length + 3) .incomplete ++ [.frameRejected] }) := by
  rw [List.append_cons _ h [l]]
  split
  next hcrc =>
    rw [feed_of_armsRun hc hw (armsRun_frame_match hs h1 h64 hcrc), List.append_assoc s.responses]
  next hcrc =>
    have hlast := decoderArm_awaitingLowCrc_mismatch h64 hcrc
    rw [feed_of_armsRun hc hw (armsRun_frame_of_lastArm hs h1 h64 hlast), List.append_assoc s.responses,
      List.append_nil]

/-- R145 in numbers: the received CRC is compared as the big-endian value of its two bytes. -/
theorem crc16_eq_be16_iff :
    crc16 m = be16 h l ↔ h.toNat * 256 + l.toNat = Spec.crcNat m := by
  rw [← BitVec.toNat_inj, crc16_toNat, be16_toNat, eq_comm]

/-! ### A damaged frame -/

/-- R15: `toBE16` takes apart what `BE16` put together. -/
theorem toBE16_be16 (h l : Byte) : toBE16 (be16 h l) = [h, l] := by
  have hh := h.isLt
  have hl := l.isLt
  have hhigh : (be16 h l).extractLsb' 8 8 = h := by
    apply BitVec.eq_of_toNat_eq
    rw [BitVec.extractLsb'_toNat, be16_toNat, Nat.shiftRight_eq_div_pow]
    omega
  have hlow : (be16 h l).extractLsb' 0 8 = l := by
    apply BitVec.eq_of_toNat_eq
    rw [BitVec.extractLsb'_toNat, be16_toNat, Nat.shiftRight_eq_div_pow]
    omega
  rw [toBE16, hhigh, hlow]

/-- R105: two bytes that are the CRC of the bytes before them leave no residue. -/
theorem crc16_append_of_eq_be16 (hcrc : crc16 m = be16 h l) : crc16 (m ++ [h, l]) = 0 := by
  rw [← toBE16_be16, ← hcrc]
  exact crc16_append_toBE16 m

/-- A flip past the first part is a flip in the rest. -/
theorem flipBit_append_right {i : Nat} (hi : m.length ≤ i) (k : Nat) :
    Spec.flipBit (m ++ bs) i k = m ++ Spec.flipBit bs (i - m.length) k := by
  rw [Spec.flipBit, Spec.flipBit, List.getD_append_right _ _ _ _ hi, List.set_append_right _ _ hi]

@[simp] theorem flipBit_length (m : ByteSeq) (i k : Nat) : (Spec.flipBit m i k).length = m.length :=
  List.length_set

/-- A sequence of `n + 2` bytes is `n` bytes and two more. -/
theorem exists_eq_append_pair {n : Nat} (hm : m.length = n + 2) :
    ∃ (q : ByteSeq) (h l : Byte), q.length = n ∧ m = q ++ [h, l] := by
  have hlast : (m.drop n).length = 2 := by rw [List.length_drop]; omega
  obtain ⟨h, l, hdrop⟩ := List.length_eq_two.mp hlast
  exact ⟨m.take n, h, l, List.length_take_of_le (by omega), by rw [← hdrop, List.take_append_drop]⟩

/-- R153: an encoded frame with a bit flipped past its length byte is still shaped as a frame of the same length. -/
theorem exists_flipBit_frameBytes {i : Nat} (hi : 2 ≤ i) (n : Byte) (p : ByteSeq) (k : Nat) :
    ∃ (q : ByteSeq) (h l : Byte), q.length = p.length ∧
      Spec.flipBit (frameBytes (frameOf n p)) i k = [0xAA, n] ++ q ++ [h, l] := by
  have htail : (Spec.flipBit (p ++ toBE16 (frameOf n p).crc) (i - 2) k).length = p.length + 2 := by simp
  obtain ⟨q, h, l, hq, hflip⟩ := exists_eq_append_pair htail
  refine ⟨q, h, l, hq, ?_⟩
  calc Spec.flipBit (frameBytes (frameOf n p)) i k
      = Spec.flipBit ([0xAA, n] ++ (p ++ toBE16 (frameOf n p).crc)) i k := rfl
    _ = [0xAA, n] ++ Spec.flipBit (p ++ toBE16 (frameOf n p).crc) (i - 2) k := flipBit_append_right hi k
    _ = [0xAA, n] ++ q ++ [h, l] := by rw [hflip, List.append_assoc]

/-- R153: the residue of an encoded frame is zero (R105), and no single flip keeps it (R106). -/
theorem crc16_flipBit_frameBytes_ne {i k : Nat} (hi : i < p.length + 4) (hk : k < 8) :
    crc16 (Spec.flipBit (frameBytes (frameOf n p)) i k) ≠ 0 := by
  have hlen : (frameBytes (frameOf n p)).length = p.length + 4 := by rw [frameBytes_frameOf]; simp
  rw [← crc16_frameBytes n p]
  exact crc16_flipBit_ne (hlen ▸ hi) hk

/-- R153: FEED of an encoded frame with a payload or CRC bit flipped. -/
theorem feed_flippedFrame {i k : Nat} (hc : s.ctx[c]? = some x) (hw : x.wf = true) (hs : x.state = .searching)
    (h1 : 1 ≤ p.length) (h64 : p.length ≤ 64) (h2 : 2 ≤ i) (hi : i < p.length + 4) (hk : k < 8) :
    ∃ y, y.state = .searching ∧
      feed c (Spec.flipBit (frameBytes (frameOf (BitVec.ofNat 8 p.length) p)) i k) s = .next { s with
        ctx := s.ctx.set c y
        responses := s.responses ++ List.replicate (p.length + 3) .incomplete ++ [.frameRejected] } := by
  have hresidue := crc16_flipBit_frameBytes_ne (n := BitVec.ofNat 8 p.length) hi hk
  obtain ⟨q, h, l, hq, hflip⟩ := exists_flipBit_frameBytes h2 (BitVec.ofNat 8 p.length) p k
  rw [hflip, ← hq] at hresidue
  have hcrc : crc16 (validationRange 0xAA (BitVec.ofNat 8 q.length) q) ≠ be16 h l :=
    fun hcrc => hresidue (crc16_append_of_eq_be16 hcrc)
  refine ⟨Context.afterFrame q h l, rfl, ?_⟩
  rw [hflip, ← hq, feed_frame hc hw hs (by omega) (by omega), if_neg hcrc]

/-! ### What a byte answers and emits -/

theorem searchingArm_events (x : Context) (b : Byte) : (searchingArm x b).events = [] := by
  unfold searchingArm
  split <;> rfl

theorem readLenArm_events (x : Context) (b : Byte) : (readLenArm x b).events = [] := by
  unfold readLenArm
  split <;> rfl

theorem readPayloadArm_events (x : Context) (b : Byte) : (readPayloadArm x b).events = [] := by
  unfold readPayloadArm
  dsimp only
  split <;> rfl

/-- The context waits for the second CRC byte. -/
def Context.AwaitsLowCrc (x : Context) : Prop := x.state = .verify ∧ x.crcIdx = 1

/-- R147, R148: the three decoder results, with what each emits. -/
inductive Verdict (x : Context) (a : ArmResult) : Prop
  | incomplete (early : ¬ x.AwaitsLowCrc) (response : a.response = .incomplete) (events : a.events = [])
  | accepted (last : x.AwaitsLowCrc) (response : a.response = .frameAccepted x.payload)
      (events : a.events = [.deliver x.payload x.expLen.toNat])
  | rejected (last : x.AwaitsLowCrc) (response : a.response = .frameRejected) (events : a.events = [])

theorem verdict_verifyLowArm (hx : x.AwaitsLowCrc) (b : Byte) : Verdict x (verifyLowArm x b) := by
  by_cases hcrc : crc16 (validationRange x.syncLatch x.expLen x.payload) = x.rxCrc ||| zext16 b
  · rw [verifyLowArm_match hcrc]
    exact .accepted hx rfl rfl
  · rw [verifyLowArm_mismatch hcrc]
    exact .rejected hx rfl rfl

/-- R148, decoder state by decoder state. -/
theorem decoderArm_verdict (x : Context) (b : Byte) : Verdict x (decoderArm x b) := by
  cases hs : x.state with
  | searching =>
    rw [decoderArm_searching hs]
    exact .incomplete (fun ⟨hv, _⟩ => nomatch hs.symm.trans hv) (searchingArm_response x b) (searchingArm_events x b)
  | readLen =>
    rw [decoderArm_readLen hs]
    exact .incomplete (fun ⟨hv, _⟩ => nomatch hs.symm.trans hv) (readLenArm_response x b) (readLenArm_events x b)
  | readPayload =>
    rw [decoderArm_readPayload hs]
    exact .incomplete (fun ⟨hv, _⟩ => nomatch hs.symm.trans hv) (readPayloadArm_response x b)
      (readPayloadArm_events x b)
  | verify =>
    obtain hi | hi : x.crcIdx = 0 ∨ x.crcIdx = 1 := BitVec.eq_zero_or_eq_one x.crcIdx
    · rw [decoderArm_verifyHigh hs hi]
      exact .incomplete (fun ⟨_, h1⟩ => absurd (hi.symm.trans h1) (by decide)) rfl rfl
    · rw [decoderArm_verifyLow hs hi]
      exact verdict_verifyLowArm ⟨hs, hi⟩ b

/-! ### Deliver and FrameAccepted -/

/-- From `s` to `t` there is one more response, and one more event exactly if it is FrameAccepted, with its bytes. -/
def DeliversAccepted (s t : State) : Prop :=
  ∃ r : Response, t.responses = s.responses ++ [r] ∧
    (∀ p, r = .frameAccepted p → t.events = s.events ++ [.deliver p p.length] ∧ 1 ≤ p.length ∧ p.length ≤ 64) ∧
    ((∀ p, r ≠ .frameAccepted p) → t.events = s.events)

/-- A response of another form emits nothing. -/
theorem deliversAccepted_of_ne (ht : t.responses = s.responses ++ [r]) (hev : t.events = s.events)
    (hr : ∀ p, r ≠ .frameAccepted p) : DeliversAccepted s t :=
  ⟨r, ht, fun p hp => absurd hp (hr p), fun _ => hev⟩

/-- R147: a byte delivers what it accepts; R33 bounds the payload's length. -/
theorem deliversAccepted_decoderArm (hw : x.wf = true) (s : State) (c : Nat) (b : Byte) :
    DeliversAccepted s (applyArm s c (decoderArm x b)) := by
  cases decoderArm_verdict x b with
  | incomplete _ hr he =>
    exact deliversAccepted_of_ne rfl (by rw [applyArm_events, he, List.append_nil]) (by rw [hr]; nofun)
  | accepted hx hr he =>
    obtain ⟨-, h1, h64, -, -⟩ := (Context.wf_verify hx.1).mp hw
    have hlen : x.payload.length = x.expLen.toNat := Context.payload_length h64
    refine ⟨.frameAccepted x.payload, by rw [applyArm_responses, hr], fun p hp => ?_, fun hne => absurd rfl (hne _)⟩
    cases hp
    exact ⟨by rw [applyArm_events, he, hlen], by omega, by omega⟩
  | rejected _ hr he =>
    exact deliversAccepted_of_ne rfl (by rw [applyArm_events, he, List.append_nil]) (by rw [hr]; nofun)

/-- R90: only a byte for the decoder may be answered FrameAccepted. -/
theorem ne_frameAccepted_of_mayAnswer (hmay : Spec.mayAnswer (.op i) r) (hi : ∀ c b, i ≠ .frameDecodeByte c b)
    (p : ByteSeq) : r ≠ .frameAccepted p := by
  rintro rfl
  cases i with
  | frameDecodeByte c b => exact hi c b rfl
  | _ => simp [Spec.mayAnswer] at hmay

/-- R222, operation by operation. -/
theorem exec_deliversAccepted (ht : exec i s = .next t) : DeliversAccepted s t := by
  cases i with
  | frameDecodeByte c b =>
    obtain ⟨-, rfl⟩ | ⟨x, -, hw, rfl⟩ := execFrameDecodeByte_next ht
    · exact deliversAccepted_of_ne rfl rfl nofun
    · exact deliversAccepted_decoderArm hw s c b
  | frameDecoderReset c =>
    obtain ⟨-, hrun⟩ | ⟨x, -, hrun⟩ := execFrameDecoderReset_cases c s <;> cases hrun.symm.trans ht
    · exact deliversAccepted_of_ne rfl rfl nofun
    · exact deliversAccepted_of_ne rfl rfl nofun
  | crc16 data => cases ht; exact deliversAccepted_of_ne rfl rfl nofun
  | frameEncode payload k =>
    cases ht
    exact deliversAccepted_of_ne rfl rfl (ne_frameAccepted_of_mayAnswer (mayAnswer_frameEncode payload k) nofun)
  | spWrap sourceId userData k nowMs =>
    cases ht
    exact deliversAccepted_of_ne rfl rfl
      (ne_frameAccepted_of_mayAnswer (mayAnswer_spWrap sourceId userData k nowMs) nofun)
  | spGetSourceId buffer => cases ht; exact deliversAccepted_of_ne rfl rfl nofun
  | spHasSecondaryHeader buffer => cases ht; exact deliversAccepted_of_ne rfl rfl nofun
  | spGetTimestamp buffer => cases ht; exact deliversAccepted_of_ne rfl rfl nofun
  | spUnpackHeader buffer =>
    cases ht
    exact deliversAccepted_of_ne rfl rfl (ne_frameAccepted_of_mayAnswer (mayAnswer_spUnpackHeader buffer) nofun)

/-! ### The way back to SEARCHING -/

/-- R151: how many bytes at most a context is away from SEARCHING. In READ_LEN these are a length byte, 64 payload bytes
and two CRC bytes. -/
def Context.bytesLeft (x : Context) : Nat :=
  match x.state with
  | .searching => 0
  | .readLen => 67
  | .readPayload => x.expLen.toNat - x.fill.toNat + 2
  | .verify => 2 - x.crcIdx.toNat

theorem Context.bytesLeft_searching (hs : x.state = .searching) : x.bytesLeft = 0 := by simp only [bytesLeft, hs]

theorem Context.bytesLeft_readLen (hs : x.state = .readLen) : x.bytesLeft = 67 := by simp only [bytesLeft, hs]

theorem Context.bytesLeft_readPayload (hs : x.state = .readPayload) :
    x.bytesLeft = x.expLen.toNat - x.fill.toNat + 2 := by simp only [bytesLeft, hs]

theorem Context.bytesLeft_verify (hs : x.state = .verify) : x.bytesLeft = 2 - x.crcIdx.toNat := by
  simp only [bytesLeft, hs]

theorem Context.bytesLeft_le (hw : x.wf = true) : x.bytesLeft ≤ 67 := by
  cases hs : x.state with
  | searching => rw [bytesLeft_searching hs]; omega
  | readLen => rw [bytesLeft_readLen hs]
  | readPayload =>
    obtain ⟨-, -, h64, -⟩ := (wf_readPayload hs).mp hw
    rw [bytesLeft_readPayload hs]
    omega
  | verify => rw [bytesLeft_verify hs]; omega

theorem verifyLowArm_state (x : Context) (b : Byte) : (verifyLowArm x b).ctx.state = .searching := by
  unfold verifyLowArm
  dsimp only
  split <;> rfl

/-- R151: outside SEARCHING every byte brings the context nearer. -/
theorem bytesLeft_decoderArm_lt (hw : x.wf = true) (hne : x.state ≠ .searching) (b : Byte) :
    (decoderArm x b).ctx.bytesLeft < x.bytesLeft := by
  cases hs : x.state with
  | searching => exact absurd hs hne
  | readLen =>
    rw [decoderArm_readLen hs, Context.bytesLeft_readLen hs]
    by_cases hb : 1 ≤ b.toNat ∧ b.toNat ≤ 64
    · obtain ⟨h1, h64⟩ := hb
      rw [readLenArm_legal h1 h64, Context.bytesLeft_readPayload rfl]
      dsimp only
      omega
    · rw [readLenArm_malformed (by omega), Context.bytesLeft_searching rfl]
      omega
  | readPayload =>
    obtain ⟨-, -, h64, hlt⟩ := (Context.wf_readPayload hs).mp hw
    have hf : x.fill.toNat < 64 := by omega
    rw [decoderArm_readPayload hs, Context.bytesLeft_readPayload hs]
    by_cases hm : x.fill.toNat + 1 = x.expLen.toNat
    · rw [readPayloadArm_last hf hm, Context.bytesLeft_verify rfl]
      omega
    · rw [readPayloadArm_more hf hm, Context.bytesLeft_readPayload (by exact hs)]
      dsimp only
      rw [Context.fill_succ hf]
      omega
  | verify =>
    rw [Context.bytesLeft_verify hs]
    obtain hi | hi : x.crcIdx = 0 ∨ x.crcIdx = 1 := BitVec.eq_zero_or_eq_one x.crcIdx
    · rw [decoderArm_verifyHigh hs hi, verifyHighArm, Context.bytesLeft_verify (by exact hs), hi]
      exact Nat.one_lt_two
    · rw [decoderArm_verifyLow hs hi, Context.bytesLeft_searching (verifyLowArm_state x b), hi]
      decide

/-- R151: a context outside SEARCHING is back there within as many bytes. -/
theorem exists_take_searching (hw : x.wf = true) (hne : x.state ≠ .searching) (hbs : x.bytesLeft ≤ bs.length) :
    ∃ k, 1 ≤ k ∧ k ≤ bs.length ∧ (armsCtx x (bs.take k)).state = .searching := by
  induction bs generalizing x with
  | nil =>
    have hlt := bytesLeft_decoderArm_lt hw hne 0
    rw [List.length_nil] at hbs
    omega
  | cons b bs ih =>
    have hlt := bytesLeft_decoderArm_lt hw hne b
    rw [List.length_cons] at hbs ⊢
    by_cases hs : (decoderArm x b).ctx.state = .searching
    · exact ⟨1, le_rfl, by omega, hs⟩
    · obtain ⟨k, -, hk, hstate⟩ := ih (decoderArm_wf hw b) hs (by omega)
      exact ⟨k + 1, by omega, by omega, hstate⟩

/-! ### One byte -/

/-- FRAME_DECODE_BYTE where the arm gives Incomplete. -/
theorem exec_frameDecodeByte_quiet (hc : s.ctx[c]? = some x) (hx : Spec.R33 x)
    (harm : decoderArm x b = ⟨y, .incomplete, []⟩) :
    exec (.frameDecodeByte c b) s =
      .next { s with ctx := s.ctx.set c y, responses := s.responses ++ [.incomplete] } := by
  rw [exec_frameDecodeByte_of_wf hc ((Context.wf_iff_R33 x).mpr hx), harm, applyArm_quiet]
  rfl

/-- R141 as one record. -/
theorem decoderArm_searching_eq (hs : x.state = .searching) (b : Byte) :
    decoderArm x b =
      ⟨if b = 0xAA then { x with state := .readLen, syncLatch := b, buf := Vector.replicate 64 0x00 } else x,
        .incomplete, []⟩ := by
  rw [decoderArm_searching hs]
  split
  next hb => subst hb; exact searchingArm_sync x
  next hb => exact searchingArm_other hb

/-- R142 as one record. -/
theorem decoderArm_readLen_eq (hs : x.state = .readLen) (b : Byte) :
    decoderArm x b =
      ⟨if 1 ≤ b.toNat ∧ b.toNat ≤ 64 then { x with state := .readPayload, expLen := b, fill := 0 }
        else { x with state := .searching }, .incomplete, []⟩ := by
  rw [decoderArm_readLen hs]
  split
  next hb => exact readLenArm_legal hb.1 hb.2
  next hb => exact readLenArm_malformed (by omega)

/-- R143: the byte at the fill index is the new one. -/
theorem getElem_setIfInBounds_eq_ite (buf : Vector Byte 64) (f : Nat) (b : Byte) {j : Nat} (hj : j < 64) :
    (buf.setIfInBounds f b)[j] = if j = f then b else buf[j] := by
  rw [Vector.getElem_setIfInBounds]
  exact if_congr eq_comm rfl rfl

/-- R14: a byte shifted into the top half, in numbers. -/
theorem zext16_shiftLeft_eq_ofNat (b : Byte) : zext16 b <<< 8 = BitVec.ofNat 16 (b.toNat * 256) := by
  have hb := b.isLt
  apply BitVec.eq_of_toNat_eq
  rw [zext16_shiftLeft_toNat, BitVec.toNat_ofNat, Nat.mod_eq_of_lt (by omega)]

end

/-! ### The statements -/

/-- Settles O42: `feed_encodedFrame` on what FRAME_ENCODE answers. -/
theorem everyEncodedFrameIsAccepted : Obligations.EveryEncodedFrameIsAccepted := by
  unfold Obligations.EveryEncodedFrameIsAccepted
  intro s c x p hc hx hs h1 h64
  obtain ⟨y, hy, hfeed⟩ := feed_encodedFrame hc hx hs h1 h64
  exact ⟨_, _, y, exec_frameEncode_whole h1 h64 s, by rw [frameBytes_frameOf]; simp, hy, hfeed⟩

/-- Settles O44: the noise ends in SEARCHING with every byte Incomplete, and there the frame is accepted. -/
theorem nonSyncNoiseOrABadLengthDoesNotLoseTheNextFrame :
    Obligations.NonSyncNoiseOrABadLengthDoesNotLoseTheNextFrame := by
  unfold Obligations.NonSyncNoiseOrABadLengthDoesNotLoseTheNextFrame
  intro s c x noise p hc hx hs h1 h64 hnoise
  obtain ⟨y, hy, hquiet⟩ := exists_quietRun_noise hs hnoise
  have hframe := armsRun_frame_match hy h1 h64 (be16_toBE16 _).symm
  rw [← frameBytes_frameOf] at hframe
  have hfeed := feed_of_armsRun hc ((Context.wf_iff_R33 x).mpr hx) (hquiet.before hframe)
  rw [← List.append_assoc] at hfeed
  exact ⟨_, _, _, exec_frameEncode_whole h1 h64 s, rfl, hfeed⟩

/-- Settles O18: the verdict on the byte. -/
theorem onlyTheLastCrcByteEndsAFrame : Obligations.OnlyTheLastCrcByteEndsAFrame := by
  unfold Obligations.OnlyTheLastCrcByteEndsAFrame
  intro s c x b hc hx
  refine ⟨_, _, exec_frameDecodeByte_of_wf hc ((Context.wf_iff_R33 x).mpr hx) b, rfl, ?_⟩
  cases decoderArm_verdict x b with
  | incomplete hearly hr _ => exact ⟨.inl hr, iff_of_true hr hearly⟩
  | accepted hlast hr _ => exact ⟨.inr (.inl ⟨_, hr⟩), iff_of_false (by rw [hr]; nofun) (not_not_intro hlast)⟩
  | rejected hlast hr _ => exact ⟨.inr (.inr hr), iff_of_false (by rw [hr]; nofun) (not_not_intro hlast)⟩

/-- Settles O39, operation by operation. -/
theorem deliverExactlyWhenAccepted : Obligations.DeliverExactlyWhenAccepted := by
  unfold Obligations.DeliverExactlyWhenAccepted
  exact fun _ _ _ ht => exec_deliversAccepted ht

/-- Settles O41: `feed_frame`, with the comparison in numbers. -/
theorem aFrameShapedStreamIsJudgedByItsCrc : Obligations.AFrameShapedStreamIsJudgedByItsCrc := by
  unfold Obligations.AFrameShapedStreamIsJudgedByItsCrc
  intro s c x p h l hc hx hs h1 h64
  have hfill : (BitVec.ofNat 7 p.length).toNat = p.length := Nat.mod_eq_of_lt (by omega)
  refine ⟨Context.afterFrame p h l, rfl, rfl, lengthByte_toNat h64, hfill, rfl, be16_toNat h l,
    Context.awaitingCrc_buf h64, ?_⟩
  rw [feed_frame hc ((Context.wf_iff_R33 x).mpr hx) hs h1 h64]
  exact congrArg _ (if_congr crc16_eq_be16_iff rfl rfl)

/-- Settles O43: the damaged frame keeps its shape and loses its zero residue. -/
theorem anyPayloadOrCrcBitFlipIsRejected : Obligations.AnyPayloadOrCrcBitFlipIsRejected := by
  unfold Obligations.AnyPayloadOrCrcBitFlipIsRejected
  intro s c x p i k hc hx hs h1 h64 h2 hi hk
  obtain ⟨y, hy, hfeed⟩ := feed_flippedFrame hc ((Context.wf_iff_R33 x).mpr hx) hs h1 h64 h2 hi hk
  exact ⟨_, _, y, exec_frameEncode_whole h1 h64 s, hy, hfeed⟩

/-- Settles O45: `Context.bytesLeft` is at most 67 and every byte lowers it. -/
theorem theDecoderNeverLocksUp : Obligations.TheDecoderNeverLocksUp := by
  unfold Obligations.TheDecoderNeverLocksUp
  intro s c x bs hc hx hne hbs
  have hw := (Context.wf_iff_R33 x).mpr hx
  obtain ⟨k, h1, hk, hstate⟩ := exists_take_searching hw hne (hbs ▸ Context.bytesLeft_le hw)
  exact ⟨k, _, _, h1, hbs ▸ hk, feed_eq hc hw _, State.context?_setContext s c x hc _, hstate⟩

/-- Settles O47: a quiet run from the context to itself. -/
theorem noiseKeepsTheContext : Obligations.NoiseKeepsTheContext := by
  unfold Obligations.NoiseKeepsTheContext
  intro s c x noise hc hx hs hnoise
  rw [feed_of_armsRun hc ((Context.wf_iff_R33 x).mpr hx) (quietRun_noise hs hnoise), ctx_set_self hc,
    List.append_nil]

/-- Settles O10: R141 at the channel's context. -/
theorem searchingTakesOnlyTheSyncByte : Obligations.SearchingTakesOnlyTheSyncByte := by
  unfold Obligations.SearchingTakesOnlyTheSyncByte
  exact fun _ _ _ b hc hx hs => exec_frameDecodeByte_quiet hc hx (decoderArm_searching_eq hs b)

/-- Settles O11: R142 at the channel's context. -/
theorem readLenTakesOneToSixtyFour : Obligations.ReadLenTakesOneToSixtyFour := by
  unfold Obligations.ReadLenTakesOneToSixtyFour
  exact fun _ _ _ b hc hx hs => exec_frameDecodeByte_quiet hc hx (decoderArm_readLen_eq hs b)

/-- Settles O12: the last payload byte, and any other. -/
theorem readPayloadAppendsTheByte : Obligations.ReadPayloadAppendsTheByte := by
  unfold Obligations.ReadPayloadAppendsTheByte
  intro s c x b hc hx hs
  obtain ⟨-, -, h64, hlt⟩ := (Context.wf_readPayload hs).mp ((Context.wf_iff_R33 x).mpr hx)
  have hf : x.fill.toNat < 64 := by omega
  have harm := decoderArm_readPayload (b := b) hs
  by_cases hm : x.fill.toNat + 1 = x.expLen.toNat
  · rw [readPayloadArm_last hf hm] at harm
    refine ⟨_, exec_frameDecodeByte_quiet hc hx harm, fun j hj => getElem_setIfInBounds_eq_ite x.buf _ b hj,
      Context.fill_succ hf, rfl, rfl, ?_⟩
    rw [if_pos hm]
    exact ⟨rfl, rfl, rfl⟩
  · rw [readPayloadArm_more hf hm] at harm
    refine ⟨_, exec_frameDecodeByte_quiet hc hx harm, fun j hj => getElem_setIfInBounds_eq_ite x.buf _ b hj,
      Context.fill_succ hf, rfl, rfl, ?_⟩
    rw [if_neg hm]
    exact ⟨hs, rfl, rfl⟩

/-- Settles O13: R144 at the channel's context, the shifted byte in numbers. -/
theorem verifyStoresTheHighCrcByte : Obligations.VerifyStoresTheHighCrcByte := by
  unfold Obligations.VerifyStoresTheHighCrcByte
  intro s c x b hc hx hs hi
  rw [← zext16_shiftLeft_eq_ofNat]
  exact exec_frameDecodeByte_quiet hc hx (decoderArm_verifyHigh hs hi)

/-- Settles O19: R33 in VERIFY gives the sync byte, and the payload's length. -/
theorem decoderAndEncoderShareTheValidationRange : Obligations.DecoderAndEncoderShareTheValidationRange := by
  unfold Obligations.DecoderAndEncoderShareTheValidationRange
  intro x hx hs
  obtain ⟨hsync, -, h64, -, -⟩ := (Context.wf_verify hs).mp ((Context.wf_iff_R33 x).mpr hx)
  refine ⟨hsync, by rw [hsync]; rfl, ?_, by rw [hsync]; rfl⟩
  rw [validationRange, List.length_append, Context.payload_length h64]
  rfl

end Sys2Proof.Machine

/-! The space-packet codec (`43_space_packet.md`): SP_WRAP's checks (R184), what each reader finds in any buffer (R187 to
R196), and what it finds in a packet SP_WRAP built (R197). -/

namespace Sys2Proof.Machine

section
variable {w data : ByteSeq} {buffer userData : Option ByteSeq} {n k : Nat} {sourceId : U16} {nowMs : U64}

/-! ### The operations -/

theorem exec_spGetSourceId (buffer : Option ByteSeq) (s : State) :
    exec (.spGetSourceId buffer) s = .next (s.respond (.sourceId (spGetSourceId buffer))) := rfl

theorem exec_spHasSecondaryHeader (buffer : Option ByteSeq) (s : State) :
    exec (.spHasSecondaryHeader buffer) s = .next (s.respond (.flag (spHasSecondaryHeader buffer))) := rfl

theorem exec_spGetTimestamp (buffer : Option ByteSeq) (s : State) :
    exec (.spGetTimestamp buffer) s = .next (s.respond (.timestamp (spGetTimestamp buffer))) := rfl

theorem exec_spUnpackHeader (buffer : Option ByteSeq) (s : State) :
    exec (.spUnpackHeader buffer) s = .next (s.respond (spUnpackHeader buffer)) := rfl

/-! ### SP_WRAP's checks -/

/-- R184: the complement of `spWrap_some`. -/
theorem spWrap_some_illegal (h : ¬(n ≤ data.length ∧ n ≤ 65528)) :
    spWrap sourceId (some data) n nowMs = .error .invalidArgument := by
  unfold spWrap
  dsimp only
  split_ifs with hshort hlong
  · rfl
  · rfl
  · exact absurd ⟨Nat.not_lt.mp hshort, Nat.not_lt.mp hlong⟩ h

/-- R184, with D12: the three bad arguments. -/
theorem spWrap_badArgument (h : userData = none ∨ 65528 < n ∨ ∃ data, userData = some data ∧ data.length < n) :
    spWrap sourceId userData n nowMs = .error .invalidArgument := by
  cases userData with
  | none => rfl
  | some data =>
    apply spWrap_some_illegal
    rintro ⟨hlen, hmax⟩
    obtain hnone | hlong | ⟨_, hdata, hshort⟩ := h
    · cases hnone
    · omega
    · cases hdata
      omega

/-! ### The fields of the identifier, in numbers -/

theorem idVersion_toNat (id : U16) : (idVersion id).toNat = id.toNat / 8192 := by
  have hid := id.isLt
  rw [idVersion, BitVec.extractLsb'_toNat, Nat.shiftRight_eq_div_pow]
  omega

theorem idType_toNat (id : U16) : (idType id).toNat = id.toNat / 4096 % 2 := by
  rw [idType, BitVec.extractLsb'_toNat, Nat.shiftRight_eq_div_pow]

theorem idSec_toNat (id : U16) : (idSec id).toNat = id.toNat / 2048 % 2 := by
  rw [idSec, BitVec.extractLsb'_toNat, Nat.shiftRight_eq_div_pow]

theorem idApid_toNat (id : U16) : (idApid id).toNat = id.toNat % 2048 := by
  rw [idApid, BitVec.extractLsb'_toNat, Nat.shiftRight_zero]

/-- R190: bit 11 of the identifier is bit 3 of its first byte. -/
theorem idSec_fieldAt_eq_one_iff (w : ByteSeq) (k : Nat) :
    idSec (fieldAt w k) = 1 ↔ (byteAt w k).toNat / 8 % 2 = 1 := by
  have hlow := (byteAt w (k + 1)).isLt
  have hsec : (idSec (fieldAt w k)).toNat = (byteAt w k).toNat / 8 % 2 := by
    rw [idSec_toNat, fieldAt, be16_toNat]
    omega
  rw [← BitVec.toNat_inj, hsec]
  rfl

/-! ### The fields of a buffer, in numbers -/

/-- R55: two bytes of a buffer as their big-endian value. -/
theorem fieldAt_toNat (h : k + 2 ≤ w.length) : (fieldAt w k).toNat = Spec.beNat ((w.drop k).take 2) := by
  have hk : k < w.length := by omega
  have hk1 : k + 1 < w.length := by omega
  have hbytes : (w.drop k).take 2 = [byteAt w k, byteAt w (k + 1)] := by
    rw [List.drop_eq_getElem_cons hk, List.drop_eq_getElem_cons hk1, byteAt_of_lt hk, byteAt_of_lt hk1]
    rfl
  rw [hbytes, fieldAt, be16_eq_beNat]

/-- R192, in numbers. -/
theorem timeField_toNat (h : 14 ≤ w.length) : (timeField w).toNat = Spec.beNat ((w.drop 6).take 8) :=
  be64_eq_beNat (memRead_length h)

/-! ### What each reader finds -/

/-- R187, R188: the two bytes of the identifier are enough. -/
theorem spGetSourceId_cons_cons_toNat (b0 b1 : Byte) (rest : ByteSeq) :
    (spGetSourceId (some (b0 :: b1 :: rest))).toNat = (b0.toNat * 256 + b1.toNat) % 2048 := by
  have hid : fieldAt (b0 :: b1 :: rest) 0 = be16 b0 b1 := rfl
  rw [spGetSourceId_some (by simp), hid, BitVec.toNat_setWidth, idApid_toNat, be16_toNat]
  omega

/-- R190, R191 as one condition. -/
theorem spHasSecondaryHeader_some_iff :
    spHasSecondaryHeader (some w) = true ↔ 2 ≤ w.length ∧ idSec (fieldAt w 0) = 1 := by
  by_cases hw : 2 ≤ w.length
  · rw [spHasSecondaryHeader_some hw, beq_iff_eq, and_iff_right hw]
  · rw [spHasSecondaryHeader_short (by omega)]
    exact iff_of_false Bool.false_ne_true fun h => hw h.1

/-- R192, R193 as one condition. -/
theorem spGetTimestamp_some_eq_ite (w : ByteSeq) :
    spGetTimestamp (some w) = if 14 ≤ w.length ∧ idSec (fieldAt w 0) = 1 then timeField w else 0 := by
  split
  next h =>
    obtain ⟨hw, hsec⟩ := h
    exact spGetTimestamp_some hw (by rw [hsec]; decide)
  next h =>
    by_cases hw : 14 ≤ w.length
    · obtain hsec | hsec := BitVec.eq_zero_or_eq_one (idSec (fieldAt w 0))
      · exact spGetTimestamp_flag hw hsec
      · exact absurd ⟨hw, hsec⟩ h
    · exact spGetTimestamp_short (by omega)

/-- R194: a time stamp is read only past a set flag. -/
theorem spHasSecondaryHeader_of_spGetTimestamp_ne_zero (h : spGetTimestamp buffer ≠ 0) :
    spHasSecondaryHeader buffer = true := by
  cases buffer with
  | none => exact absurd rfl h
  | some w =>
    rw [spGetTimestamp_some_eq_ite] at h
    obtain ⟨hw, hsec⟩ := (ite_ne_right_iff.mp h).1
    exact spHasSecondaryHeader_some_iff.mpr ⟨by omega, hsec⟩

/-- R195: the time stamp of the header record, in numbers. -/
theorem unpackedHeader_time_toNat (w : ByteSeq) :
    (unpackedHeader w).time.map BitVec.toNat =
      if (unpackedHeader w).sec = 1 ∧ 14 ≤ w.length then some (Spec.beNat ((w.drop 6).take 8)) else none := by
  have htime : (unpackedHeader w).time =
      if (unpackedHeader w).sec = 1 ∧ 14 ≤ w.length then some (timeField w) else none := rfl
  rw [htime]
  split
  next h => rw [Option.map_some, timeField_toNat h.2]
  next => rfl

/-- R196: the two buffers without a primary header. -/
theorem spUnpackHeader_undersized (h : buffer = none ∨ ∃ w, buffer = some w ∧ w.length < 6) :
    spUnpackHeader buffer = .undersized := by
  obtain rfl | ⟨w, rfl, hw⟩ := h
  · rfl
  · exact spUnpackHeader_short hw

/-! ### The fields of a wrapped packet -/

/-- R15: `BE64` puts back together what `toBE64` took apart. -/
theorem be64_toBE64 (v : U64) : be64 (toBE64 v) = v := by
  apply BitVec.eq_of_toNat_eq
  have hv := v.isLt
  simp only [toBE64, be64_toNat, BitVec.extractLsb'_toNat, Nat.shiftRight_eq_div_pow]
  omega

/-- R82: the identifier stands first. -/
theorem fieldAt_packetBytes_id : fieldAt (packetBytes sourceId data nowMs) 0 = spIdentifier sourceId :=
  be16_toBE16 _

/-- R82: the sequence field stands second. -/
theorem fieldAt_packetBytes_seq : fieldAt (packetBytes sourceId data nowMs) 2 = Params.spSeqFixed :=
  be16_toBE16 _

/-- R82: the length field stands third. -/
theorem fieldAt_packetBytes_plen : fieldAt (packetBytes sourceId data nowMs) 4 = spLengthField data.length :=
  be16_toBE16 _

/-- R82, R85: the time stamp of the secondary header. -/
theorem timeField_packetBytes : timeField (packetBytes sourceId data nowMs) = nowMs := by
  rw [timeField, memRead_packetBytes_time, be64_toBE64]

/-- R182: version 0. -/
theorem idVersion_spIdentifier (sourceId : U16) : idVersion (spIdentifier sourceId) = 0 := by
  apply BitVec.eq_of_toNat_eq
  rw [idVersion_toNat, spIdentifier_toNat]
  show (0x1800 + sourceId.toNat % 2048) / 8192 = 0
  omega

/-- R182: type 1. -/
theorem idType_spIdentifier (sourceId : U16) : idType (spIdentifier sourceId) = 1 := by
  apply BitVec.eq_of_toNat_eq
  rw [idType_toNat, spIdentifier_toNat]
  show (0x1800 + sourceId.toNat % 2048) / 4096 % 2 = 1
  omega

/-- R182: the secondary-header flag is set. -/
theorem idSec_spIdentifier (sourceId : U16) : idSec (spIdentifier sourceId) = 1 := by
  apply BitVec.eq_of_toNat_eq
  rw [idSec_toNat, spIdentifier_toNat]
  show (0x1800 + sourceId.toNat % 2048) / 2048 % 2 = 1
  omega

/-- R182: the APID is the low 11 bits of the source id. -/
theorem idApid_spIdentifier (sourceId : U16) : idApid (spIdentifier sourceId) = sourceId.setWidth 11 := by
  apply BitVec.eq_of_toNat_eq
  rw [idApid_toNat, spIdentifier_toNat, BitVec.toNat_setWidth]
  omega

/-- R187: the low 11 bits, widened again, are the source id under SP_APID_MASK. -/
theorem setWidth_apid_eq_and (sourceId : U16) : (sourceId.setWidth 11).setWidth 16 = sourceId &&& 0x7FF := by
  have hmask : sourceId.toNat &&& 0x7FF = sourceId.toNat % 2048 := Nat.and_two_pow_sub_one_eq_mod _ 11
  apply BitVec.eq_of_toNat_eq
  calc ((sourceId.setWidth 11).setWidth 16).toNat
      = sourceId.toNat % 2048 := by
        rw [BitVec.toNat_setWidth, BitVec.toNat_setWidth]
        omega
    _ = (sourceId &&& 0x7FF).toNat := by rw [BitVec.toNat_and, ← hmask]; rfl

/-- R183: the length field as the number of bytes after the primary header, less 1. -/
theorem spLengthField_eq_ofNat (n : Nat) : spLengthField n = BitVec.ofNat 16 (7 + n) := by
  rw [spLengthField, show Params.spSecondaryLen + n - 1 = 7 + n by simp only [Params.spSecondaryLen]; omega]

/-- R197, the source id. -/
theorem spGetSourceId_packetBytes :
    spGetSourceId (some (packetBytes sourceId data nowMs)) = sourceId &&& 0x7FF := by
  rw [spGetSourceId_some (by rw [packetBytes_length]; omega), fieldAt_packetBytes_id, idApid_spIdentifier,
    setWidth_apid_eq_and]

/-- R197, the secondary-header flag. -/
theorem spHasSecondaryHeader_packetBytes :
    spHasSecondaryHeader (some (packetBytes sourceId data nowMs)) = true := by
  rw [spHasSecondaryHeader_some_iff, packetBytes_length, fieldAt_packetBytes_id]
  exact ⟨by omega, idSec_spIdentifier sourceId⟩

/-- R197, the time stamp. -/
theorem spGetTimestamp_packetBytes : spGetTimestamp (some (packetBytes sourceId data nowMs)) = nowMs := by
  rw [spGetTimestamp_some_eq_ite, packetBytes_length, fieldAt_packetBytes_id,
    if_pos ⟨by omega, idSec_spIdentifier sourceId⟩, timeField_packetBytes]

/-- R197, the header record. -/
theorem unpackedHeader_packetBytes :
    unpackedHeader (packetBytes sourceId data nowMs) =
      { version := 0, kind := 1, sec := 1, apid := sourceId.setWidth 11, seq := 0xC000,
        plen := BitVec.ofNat 16 (7 + data.length), time := some nowMs } := by
  have hlen : Params.spPrimaryLen + Params.spSecondaryLen ≤ 14 + data.length := Nat.le_add_right 14 _
  simp only [unpackedHeader, fieldAt_packetBytes_id, fieldAt_packetBytes_seq, fieldAt_packetBytes_plen,
    timeField_packetBytes, packetBytes_length, idVersion_spIdentifier, idType_spIdentifier, idSec_spIdentifier,
    idApid_spIdentifier, spLengthField_eq_ofNat, Params.spSeqFixed, hlen, and_self, if_true]

/-- R197, SP_UNPACK_HEADER. -/
theorem spUnpackHeader_packetBytes :
    spUnpackHeader (some (packetBytes sourceId data nowMs)) = .header
      { version := 0, kind := 1, sec := 1, apid := sourceId.setWidth 11, seq := 0xC000,
        plen := BitVec.ofNat 16 (7 + data.length), time := some nowMs } := by
  rw [spUnpackHeader_some (by rw [packetBytes_length]; omega), unpackedHeader_packetBytes]

end

/-! ### The statements -/

/-- Settles O54: each reader on `packetBytes`, and the user data from byte 14 on. -/
theorem aWrappedPacketReadsBack : Obligations.AWrappedPacketReadsBack := by
  unfold Obligations.AWrappedPacketReadsBack
  intro sourceId data nowMs s hmax
  refine ⟨packetBytes sourceId data nowMs, exec_spWrap_whole hmax s, ?_, ?_, ?_, ?_, ?_⟩
  · rw [exec_spGetSourceId, spGetSourceId_packetBytes]; rfl
  · rw [exec_spHasSecondaryHeader, spHasSecondaryHeader_packetBytes]; rfl
  · rw [exec_spGetTimestamp, spGetTimestamp_packetBytes]; rfl
  · rw [exec_spUnpackHeader, spUnpackHeader_packetBytes]; rfl
  · rw [packetBytes_drop, List.take_length]

/-- Settles O50: two bytes or more, and the three ways to have fewer. -/
theorem spGetSourceIdReadsTheApid : Obligations.SpGetSourceIdReadsTheApid := by
  unfold Obligations.SpGetSourceIdReadsTheApid
  intro buffer s
  refine ⟨spGetSourceId buffer, ?_, exec_spGetSourceId buffer s⟩
  match buffer with
  | some (b0 :: b1 :: rest) => exact spGetSourceId_cons_cons_toNat b0 b1 rest
  | some [_] => rfl
  | some [] => rfl
  | none => rfl

/-- Settles O51: two bytes or more, and the three ways to have fewer. -/
theorem spHasSecondaryHeaderReadsBitEleven : Obligations.SpHasSecondaryHeaderReadsBitEleven := by
  unfold Obligations.SpHasSecondaryHeaderReadsBitEleven
  intro buffer s
  refine ⟨spHasSecondaryHeader buffer, ?_, exec_spHasSecondaryHeader buffer s⟩
  match buffer with
  | some (b0 :: b1 :: rest) =>
    rw [spHasSecondaryHeader_some_iff, and_iff_right (by simp)]
    exact idSec_fieldAt_eq_one_iff (b0 :: b1 :: rest) 0
  | some [_] => exact iff_of_false Bool.false_ne_true id
  | some [] => exact iff_of_false Bool.false_ne_true id
  | none => exact iff_of_false Bool.false_ne_true id

/-- Settles O52: `spGetTimestamp_some_eq_ite`, the flag and the time in numbers. -/
theorem spGetTimestampReadsTheTime : Obligations.SpGetTimestampReadsTheTime := by
  unfold Obligations.SpGetTimestampReadsTheTime
  intro buffer s
  refine ⟨spGetTimestamp buffer, ?_, exec_spGetTimestamp buffer s⟩
  cases buffer with
  | none => rfl
  | some w =>
    simp only [spGetTimestamp_some_eq_ite, idSec_fieldAt_eq_one_iff, byteAt]
    split
    next h => exact timeField_toNat h.1
    next => rfl

/-- Settles O53: the fields of `unpackedHeader` in numbers, and the two buffers without a header. -/
theorem spUnpackHeaderReadsEveryField : Obligations.SpUnpackHeaderReadsEveryField := by
  unfold Obligations.SpUnpackHeaderReadsEveryField
  constructor
  · intro w s hw
    have hid : (fieldAt w 0).toNat = Spec.beNat (w.take 2) := fieldAt_toNat (by omega)
    rw [exec_spUnpackHeader, spUnpackHeader_some hw, ← hid]
    exact ⟨unpackedHeader w, idVersion_toNat _, idType_toNat _, idSec_toNat _, idApid_toNat _,
      fieldAt_toNat (by omega), fieldAt_toNat (by omega), unpackedHeader_time_toNat w, rfl⟩
  · intro buffer s hbuf
    rw [exec_spUnpackHeader, spUnpackHeader_undersized hbuf]
    rfl

/-- Settles O55: the response is the value `spGetTimestamp` gives, and that value is not the sentinel. -/
theorem aTimestampImpliesASecondaryHeader : Obligations.ATimestampImpliesASecondaryHeader := by
  unfold Obligations.ATimestampImpliesASecondaryHeader
  intro buffer s t v hrun hresp hv
  rw [exec_spGetTimestamp] at hrun
  cases hrun
  cases List.append_cancel_left hresp
  rw [exec_spHasSecondaryHeader, spHasSecondaryHeader_of_spGetTimestamp_ne_zero hv]
  rfl

/-- Settles O49: the operation answers what `spWrap` gives, and that is the error. -/
theorem spWrapAnswersInvalidArgument : Obligations.SpWrapAnswersInvalidArgument := by
  unfold Obligations.SpWrapAnswersInvalidArgument
  intro sourceId userData n nowMs s hbad
  rw [exec_spWrap, spWrap_badArgument hbad]
  rfl

end Sys2Proof.Machine

/-! Errors (`60_exceptions.md`): what an operation has left of the state when it answers `Error(kind)`. -/

namespace Sys2Proof.Machine

section
variable {s t : State} {i : Instr}

/-- R148: none of the decoder's three results for a byte is an error. -/
theorem decoderArm_response_ne_error (x : Context) (b : Byte) (k : ErrorKind) :
    (decoderArm x b).response ≠ .error k := by
  cases decoderArm_verdict x b with
  | incomplete _ hr _ => rw [hr]; nofun
  | accepted _ hr _ => rw [hr]; nofun
  | rejected _ hr _ => rw [hr]; nofun

/-- R210: an operation answers alone, or it writes its channel's context and then the answer is no error. -/
theorem exec_next_responds_or_succeeds (ht : exec i s = .next t) :
    (∃ r, t = s.respond r) ∨ ∃ c a, t = applyArm s c a ∧ ∀ k, a.response ≠ .error k := by
  cases hi : Spec.channel i with
  | none =>
    obtain ⟨r, hr⟩ := exec_of_channel_eq_none hi
    cases (hr s).symm.trans ht
    exact .inl ⟨r, rfl⟩
  | some d =>
    cases i with
    | frameDecodeByte c b =>
      obtain ⟨-, rfl⟩ | ⟨x, -, -, rfl⟩ := execFrameDecodeByte_next ht
      · exact .inl ⟨_, rfl⟩
      · exact .inr ⟨c, decoderArm x b, rfl, decoderArm_response_ne_error x b⟩
    | frameDecoderReset c =>
      obtain ⟨-, hrun⟩ | ⟨x, -, hrun⟩ := execFrameDecoderReset_cases c s <;> cases hrun.symm.trans ht
      · exact .inl ⟨_, rfl⟩
      · exact .inr ⟨c, ⟨Context.reset, .ok, []⟩, (applyArm_quiet s c Context.reset .ok).symm, nofun⟩
    | _ => cases hi

end

/-! ### The statement -/

/-- Settles O38: an operation that answers an error writes no context and emits nothing
(`exec_next_responds_or_succeeds`). -/
theorem anErrorResponseChangesNothingElse : Obligations.AnErrorResponseChangesNothingElse := by
  unfold Obligations.AnErrorResponseChangesNothingElse
  intro i s t k ht hresp
  obtain ⟨r, rfl⟩ | ⟨c, a, rfl, hne⟩ := exec_next_responds_or_succeeds ht
  · cases List.append_cancel_left hresp
    rfl
  · exact absurd (List.singleton_inj.mp (List.append_cancel_left hresp)) (hne k)

end Sys2Proof.Machine

/-! Reset and hazards (`70_reset_and_hazards.md`): a run of one FRAME_DECODER_RESET per channel, and the step that finds
no request. -/

namespace Sys2Proof.Machine

section
variable {s t : State} {c : Nat} {x : Context} {rest : List Request} {cleared todo : List Context}

/-- R241: one FRAME_DECODER_RESET for each of the `k` channels from `first` on, in turn. -/
def resetRequests (first k : Nat) : List Request :=
  (List.range' first k).map fun c => encode (.frameDecoderReset c)

theorem resetRequests_succ (first k : Nat) :
    resetRequests first (k + 1) = encode (.frameDecoderReset first) :: resetRequests (first + 1) k := by
  rw [resetRequests, List.range'_succ, List.map_cons, resetRequests]

/-- A run whose first step gives a next state goes on from there. -/
theorem run_succ_of_step (h : step s = .next t) (k : Nat) :
    Host.Core.run Sys2Proof.core (k + 1) s = Host.Core.run Sys2Proof.core k t := by
  rw [run_succ, h]

/-- R150: the step that takes a reset of a legal channel, whatever its context holds. -/
theorem step_frameDecoderReset (hreq : s.requests = encode (.frameDecoderReset c) :: rest)
    (hc : s.ctx[c]? = some x) :
    step s = .next { s with
      ctx := s.ctx.set c Context.reset, requests := rest, responses := s.responses ++ [.ok] } := by
  rw [step_of_requests hreq, decode_encode]
  exact exec_frameDecoderReset_legal hc

/-- R241: resets of the channels from the first one in `todo` on write the reset values to exactly those. -/
theorem run_resetRequests (hctx : s.ctx = cleared ++ todo)
    (hreq : s.requests = resetRequests cleared.length todo.length ++ rest) :
    Host.Core.run Sys2Proof.core todo.length s = .next { s with
      ctx := cleared ++ List.replicate todo.length Context.reset
      requests := rest
      responses := s.responses ++ List.replicate todo.length .ok } := by
  induction todo generalizing s cleared with
  | nil =>
    rw [List.append_nil] at hctx
    have hrest : s.requests = rest := hreq
    subst hctx hrest
    simp [run_zero]
  | cons x todo ih =>
    rw [List.length_cons, resetRequests_succ, List.cons_append] at hreq
    have hc : s.ctx[cleared.length]? = some x := by simp [hctx]
    have hset : s.ctx.set cleared.length Context.reset = (cleared ++ [Context.reset]) ++ todo := by simp [hctx]
    rw [List.length_cons, run_succ_of_step (step_frameDecoderReset hreq hc),
      ih (cleared := cleared ++ [Context.reset]) hset (by rw [List.length_append]; rfl)]
    simp [List.replicate_succ]

end

/-! ### The statements -/

/-- Settles O22: `run_resetRequests` with every channel still to reset. -/
theorem resettingEveryChannelIsPowerOn : Obligations.ResettingEveryChannelIsPowerOn := by
  unfold Obligations.ResettingEveryChannelIsPowerOn
  intro s
  rw [List.range_eq_range']
  exact run_resetRequests (cleared := []) (todo := s.ctx) rfl rfl

/-- Settles O32: `step_of_no_request`, there is nothing to take. -/
theorem stepIdlesWithoutARequest : Obligations.StepIdlesWithoutARequest := by
  unfold Obligations.StepIdlesWithoutARequest
  exact fun _ hreq => step_of_no_request hreq

end Sys2Proof.Machine
